-- ==== Sys2Proof/Word.lean ====
section
/-! DEFINITION. The widths the spec uses (00_scope.md R7): all values unsigned. -/

namespace Sys2Proof

/-- A byte: 8 bits (00_scope.md R7). -/
abbrev Byte := BitVec 8

/-- `u16` (00_scope.md R7). -/
abbrev Word16 := BitVec 16

/-- `u32` (00_scope.md R7). -/
abbrev Word := BitVec 32

/-- One packed group: its 11 bytes as the little-endian 88-bit integer of
20_memory.md R42, byte 0 lowest. -/
abbrev Group := BitVec 88

end Sys2Proof
end

