-- ==== Sys2Proof/Config.lean ====
section
/-! DEFINITION. Constants the source fixes (00_scope.md R5), the parameters (R6),
and the free values (93_implementation_defined.md U3). -/

namespace Sys2Proof

/-- `CTRL_HEADER` (R5). -/
def Config.ctrlHeader : Byte := 0xFF

/-- `LINK_SIZE`, the size byte of a link frame (R5). -/
def Config.linkSize : Byte := 0x08

/-- `LINK_PRIM`, the primitive byte the block sends (R5). -/
def Config.linkPrim : Byte := 0x10

/-- `LINK_FRAME_LEN` (R5, 90_conflicts.md C2). -/
def Config.linkFrameLen : Nat := 10

/-- `CHANNELS_MAX` (R5). -/
def Config.channelsMax : Nat := 24

/-- `GROUP_CHANNELS` (R5). -/
def Config.groupChannels : Nat := 8

/-- `GROUP_BYTES` (R5). -/
def Config.groupBytes : Nat := 11

/-- `RAW_MIN` (R5). -/
def Config.rawMin : Nat := 8

/-- `RAW_MAX` (R5). -/
def Config.rawMax : Nat := 1976

/-- `PULSE_MIN` (R5). -/
def Config.pulseMin : Nat := 500

/-- `PULSE_MAX` (R5). -/
def Config.pulseMax : Nat := 2500

/-- `UNSET` (R5). -/
def Config.unset : Nat := 0

/-- `SYNC_DROP` (R5). -/
def Config.syncDrop : Nat := 2

/-- `OUTBOX_CAP` (R5). -/
def Config.outboxCap : Nat := 8

/-- `SCB_SIZE` (R5). -/
def Config.scbSize : Nat := 104

/-- The parameters of 00_scope.md R6 that a rule of the block, or the host's reading of
`flags`, uses. They are constant for a run (20_memory.md R54). State carries them because
`exec` takes no other argument: log 1, log 2. -/
structure Params where
  /-- `NODE_ID`, OPEN. -/
  nodeId : Byte
  /-- `T_MIN`, ticks, OPEN. -/
  tMin : Nat
  /-- `T_MAX`, ticks, OPEN. -/
  tMax : Nat
  /-- `SCB_BASE`, OPEN, a multiple of 4. -/
  scbBase : Nat
  /-- `CSUM_COVERS_SIZE` (D1). -/
  csumCoversSize : Bool
  /-- `CHECK_PRIM_ON_RX` (D17). -/
  checkPrimOnRx : Bool
  /-- `LINE_ECHO` (D13). -/
  lineEcho : Bool
  /-- `FLAG_CH17_BIT` (D6). -/
  flagCh17Bit : Nat
  /-- `FLAG_CH18_BIT` (D6). -/
  flagCh18Bit : Nat
  /-- `FLAG_FRAME_LOST_BIT` (D6). -/
  flagFrameLostBit : Nat
  /-- `FLAG_FAILSAFE_BIT` (D6). -/
  flagFailsafeBit : Nat
  /-- The link device and the shared memory are available (70_reset_and_hazards.md R252 (a)). -/
  linkReady : Bool
  deriving DecidableEq, Repr

/-- The parameters `State.reset` carries. The OPEN ones are DESIGN CHOICE (log 1: the example
values of D27 and a base of 0x1000), the others the defaults of R6 (log 2). -/
def Params.initial : Params where
  nodeId := 0x02
  tMin := 500
  tMax := 3000
  scbBase := 0x1000
  csumCoversSize := false
  checkPrimOnRx := false
  lineEcho := true
  flagCh17Bit := 0
  flagCh18Bit := 1
  flagFrameLostBit := 2
  flagFailsafeBit := 3
  linkReady := true

/-- A free value: what the registers that R250 leaves unspecified hold after `RESET`
(U3: `any value`; log 4). Nothing is known of it; the argument is a counter. -/
opaque Config.freeWord : Nat → Word

end Sys2Proof
end

