-- ==== Sys2Proof/Syntax.lean ====
section
/-! DEFINITION. The 27 rows of spec/opcode_table.json (30_encoding.md R75, R76), one
constructor each, and the shapes of their operands. -/

namespace Sys2Proof

/-- A TelemetryItem: "16-bit application id + 32-bit data word" (10_state.md R24). -/
structure TelemetryItem where
  appId : Word16
  data : Word
  deriving DecidableEq, Repr

/-- The zero item (10_state.md R24). -/
def TelemetryItem.zero : TelemetryItem := { appId := 0, data := 0 }

/-- The packed groups of a control frame: one, two or three (30_encoding.md R61). -/
inductive Groups where
  | one (g0 : Group)
  | two (g0 g1 : Group)
  | three (g0 g1 g2 : Group)
  deriving DecidableEq, Repr

/-- What a control frame carries. Size, header and checksum follow from it (R61), so a
body names exactly one control frame that validates: the operand of `PUBLISH` and
`DECODE_CHANNELS`, whose stated domain is the validated frames (log 9). -/
structure ControlBody where
  groups : Groups
  status : Byte
  quality : Byte
  deriving DecidableEq, Repr

/-- The instructions: frame rows, state rows, operation rows (30_encoding.md R76). -/
inductive Instr where
  /-- `CTRL8`: 16 bytes, one group (R61). -/
  | ctrl8 (g0 : Group) (status quality checksum : Byte)
  /-- `CTRL16`: 27 bytes, two groups (R61). -/
  | ctrl16 (g0 g1 : Group) (status quality checksum : Byte)
  /-- `CTRL24`: 38 bytes, three groups (R61). -/
  | ctrl24 (g0 g1 g2 : Group) (status quality checksum : Byte)
  /-- `DL`: 10 bytes, after a control frame (R63, R73). -/
  | dl (device primitive : Byte) (appId : Word16) (data : Word) (checksum : Byte)
  /-- `UL`: 10 bytes, after a downlink frame (R63, R73). -/
  | ul (device primitive : Byte) (appId : Word16) (data : Word) (checksum : Byte)
  /-- `Syncing`, code 0 (42_link_fsm.md R140). -/
  | syncing
  /-- `ReadControl`, code 1 (42_link_fsm.md R141). -/
  | readControl
  /-- `ReadDownlink`, code 2 (42_link_fsm.md R143). -/
  | readDownlink
  /-- `WaitWriteUplink`, code 3 (42_link_fsm.md R144). -/
  | waitWriteUplink
  /-- `WriteUplink`, code 4 (42_link_fsm.md R145). -/
  | writeUplink
  /-- `ReadUplink`, code 5 (42_link_fsm.md R146). -/
  | readUplink
  /-- `FOLD(s)`, operation 0 (40_codec.md R91). -/
  | fold (s : Word16)
  /-- `CSUM(b)`, operation 1 (40_codec.md R92). -/
  | csum (b : List Byte)
  /-- `CHECK(f)` on `f = b0 b1 rest`, at least two bytes, operation 2 (40_codec.md R94). -/
  | check (b0 b1 : Byte) (rest : List Byte)
  /-- `VALIDATE_CONTROL(f)` on `f = b0 b1 rest`, operation 3 (40_codec.md R95). -/
  | validateControl (b0 b1 : Byte) (rest : List Byte)
  /-- `VALIDATE_LINK(f)`, operation 4 (40_codec.md R96). -/
  | validateLink (f : List Byte)
  /-- `BUILD_UPLINK(dev, item)`, operation 5 (40_codec.md R98). -/
  | buildUplink (dev : Byte) (item : TelemetryItem)
  /-- `UNPACK11(b, i)`, operation 6 (41_channels.md R110). -/
  | unpack11 (b : Group) (i : Fin 8)
  /-- `PACK11(r)`, operation 7; wider values are truncated (41_channels.md R111). -/
  | pack11 (r0 r1 r2 r3 r4 r5 r6 r7 : Nat)
  /-- `RAW2PULSE(raw)`, operation 8, raw 0 to 2047 (41_channels.md R113). -/
  | raw2pulse (raw : BitVec 11)
  /-- `PULSE2RAW(pulse)`, operation 9, a natural number (41_channels.md R114). -/
  | pulse2raw (pulse : Nat)
  /-- `DECODE_CHANNELS(f, G)`, operation 10 (41_channels.md R115). -/
  | decodeChannels (f : ControlBody)
  /-- `HOST_PUSH(item)`, operation 11 (43_outbox.md R171). -/
  | hostPush (item : TelemetryItem)
  /-- `POP()`, operation 12 (43_outbox.md R172). -/
  | pop
  /-- `PUBLISH(f, G)`, operation 13 (44_shared_block.md R180). -/
  | publish (f : ControlBody)
  /-- `HOST_SNAPSHOT()`, operation 14 (44_shared_block.md R186). -/
  | hostSnapshot
  /-- `RESET`, operation 15 (70_reset_and_hazards.md R250). -/
  | reset
  deriving DecidableEq, Repr

end Sys2Proof
end

