-- ==== Sys2Proof/WellFormed.lean ====
section
/-! DEFINITION. Which instructions the operand bytes of log 9 can carry. Every other
limit of the spec's operand domains is in the types of `Instr`. `exec` gives a meaning
to the ill-formed ones too: `PACK11` and `PULSE2RAW` take natural numbers of any size. -/

namespace Sys2Proof

/-- An operand of `PACK11` fits its 16-bit operand field. -/
def fits16 (n : Nat) : Bool := n < 65536

/-- An operand of `PULSE2RAW` fits its 32-bit operand field. -/
def fits32 (n : Nat) : Bool := n < 4294967296

/-- Well-formed: the instruction has an encoding. -/
def WellFormed : Instr → Bool
  | .pack11 r0 r1 r2 r3 r4 r5 r6 r7 =>
      fits16 r0 && fits16 r1 && fits16 r2 && fits16 r3 &&
        fits16 r4 && fits16 r5 && fits16 r6 && fits16 r7
  | .pulse2raw pulse => fits32 pulse
  | .ctrl8 .. => true
  | .ctrl16 .. => true
  | .ctrl24 .. => true
  | .dl .. => true
  | .ul .. => true
  | .syncing => true
  | .readControl => true
  | .readDownlink => true
  | .waitWriteUplink => true
  | .writeUplink => true
  | .readUplink => true
  | .fold _ => true
  | .csum _ => true
  | .check .. => true
  | .validateControl .. => true
  | .validateLink _ => true
  | .buildUplink .. => true
  | .unpack11 .. => true
  | .raw2pulse _ => true
  | .decodeChannels _ => true
  | .hostPush _ => true
  | .pop => true
  | .publish _ => true
  | .hostSnapshot => true
  | .reset => true

end Sys2Proof
end

