-- ==== Sys2Proof/Decode.lean ====
section
/-! DEFINITION. The decoder, total on any bytes and rejecting by name, and the encoder.
A frame row is decoded from its bytes on the wire, first byte first, where its kind of
frame is expected (30_encoding.md R60 to R65, R73); a state row from its 3-bit code and
an operation row from its 4-bit number (R75), each in one byte. The operand bytes of an
operation row are the model's own (log 9). -/

namespace Sys2Proof

/-- The selector spaces of R75: what kind of code stands at the front of the bytes. DL and
UL share their bytes and are told apart by position (R73). -/
inductive Place where
  /-- Where a control frame is expected. -/
  | control
  /-- After a control frame: a downlink frame is expected. -/
  | downlink
  /-- After a downlink frame: an uplink frame is expected. -/
  | uplink
  /-- A 3-bit state code (10_state.md R12). -/
  | stateCode
  /-- A 4-bit operation number (R75), then operands to the end of the bytes. -/
  | opNumber
  deriving DecidableEq, Repr

/-- Why bytes are no instruction. -/
inductive DecodeError where
  /-- Too few bytes so far. -/
  | incomplete
  /-- Byte 1 of a control frame is not 0xFF (R68 (b)). -/
  | badHeader
  /-- Byte 0 is none of 0x0D, 0x18, 0x23 (R68 (a)). -/
  | badSize
  /-- Byte 0 is not 0x08 where a link frame is expected (R68 (a)). -/
  | notLinkSize
  /-- State codes 6 and 7 (10_state.md R12, U4). -/
  | unreachableState
  /-- A selector byte wider than its 3 or 4 bits. -/
  | badSelector
  /-- The operand bytes of an operation are too many, too few or out of range. -/
  | badOperand
  deriving DecidableEq, Repr

/-! ### Field assembly (30_encoding.md R65, 00_scope.md R7) -/

/-- Byte `k` of a value, byte 0 least significant: `v[8k+7:8k]`. -/
def byteAt (v : BitVec n) (k : Nat) : Byte := v.extractLsb' (8 * k) 8

/-- `le16` of two bytes, least significant first (00_scope.md R7, 20_memory.md R43). -/
def le16 (b0 b1 : Byte) : Word16 := b1 ++ b0

/-- `le32` of four bytes, least significant first (00_scope.md R7, 20_memory.md R43). -/
def le32 (b0 b1 b2 b3 : Byte) : Word := b3 ++ b2 ++ b1 ++ b0

/-- The 88-bit integer of a group's 11 bytes, `b0` lowest (41_channels.md R110). -/
def le88 (b0 b1 b2 b3 b4 b5 b6 b7 b8 b9 b10 : Byte) : Group :=
  b10 ++ b9 ++ b8 ++ b7 ++ b6 ++ b5 ++ b4 ++ b3 ++ b2 ++ b1 ++ b0

/-- `bytes_le16` (00_scope.md R7). -/
def bytesLE16 (v : Word16) : List Byte := [byteAt v 0, byteAt v 1]

/-- `bytes_le32` (00_scope.md R7). -/
def bytesLE32 (v : Word) : List Byte := [byteAt v 0, byteAt v 1, byteAt v 2, byteAt v 3]

/-- The 11 bytes of a group, first on the wire first (41_channels.md R111). -/
def groupBytes (g : Group) : List Byte :=
  [byteAt g 0, byteAt g 1, byteAt g 2, byteAt g 3, byteAt g 4, byteAt g 5,
    byteAt g 6, byteAt g 7, byteAt g 8, byteAt g 9, byteAt g 10]

/-- The first group of a byte run, and the bytes after it. -/
def takeGroup : List Byte → Option (Group × List Byte)
  | b0 :: b1 :: b2 :: b3 :: b4 :: b5 :: b6 :: b7 :: b8 :: b9 :: b10 :: rest =>
      some (le88 b0 b1 b2 b3 b4 b5 b6 b7 b8 b9 b10, rest)
  | _ => none

/-- The groups of a control frame as a list, first on the wire first. -/
def Groups.list : Groups → List Group
  | .one g0 => [g0]
  | .two g0 g1 => [g0, g1]
  | .three g0 g1 g2 => [g0, g1, g2]

/-- `G`, the number of groups (30_encoding.md R61). -/
def Groups.count (gs : Groups) : Nat := gs.list.length

/-- The size byte `11*G + 2` (30_encoding.md R61). -/
def controlSize (G : Nat) : Byte := BitVec.ofNat 8 (11 * G + 2)

/-- A control frame before its checksum byte: size, header, packed groups, status, quality
(30_encoding.md R61; size first: 90_conflicts.md C1). -/
def controlHead (gs : Groups) (status quality : Byte) : List Byte :=
  controlSize gs.count :: Config.ctrlHeader ::
    (gs.list.flatMap groupBytes ++ [status, quality])

/-- A whole control frame on the wire (30_encoding.md R61). -/
def controlBytes (gs : Groups) (status quality checksum : Byte) : List Byte :=
  controlHead gs status quality ++ [checksum]

/-- The bytes of a link frame that its checksum covers: device to data (30_encoding.md R63). -/
def linkBody (device primitive : Byte) (appId : Word16) (data : Word) : List Byte :=
  device :: primitive :: (bytesLE16 appId ++ bytesLE32 data)

/-- A whole link frame on the wire (30_encoding.md R63). -/
def linkBytes (device primitive : Byte) (appId : Word16) (data : Word) (checksum : Byte) :
    List Byte :=
  Config.linkSize :: (linkBody device primitive appId data ++ [checksum])

/-! ### The decoder -/

/-- The bytes after the groups of a control frame: status, quality, checksum. -/
def decodeTail (mk : Byte → Byte → Byte → Instr) :
    List Byte → Except DecodeError (Instr × List Byte)
  | st :: q :: c :: rest => .ok (mk st q c, rest)
  | _ => .error .incomplete

/-- A control frame of one group, after its first two bytes. -/
def decodeCtrl8 (bs : List Byte) : Except DecodeError (Instr × List Byte) :=
  match takeGroup bs with
  | some (g0, r) => decodeTail (.ctrl8 g0) r
  | none => .error .incomplete

/-- A control frame of two groups, after its first two bytes. -/
def decodeCtrl16 (bs : List Byte) : Except DecodeError (Instr × List Byte) :=
  match takeGroup bs with
  | some (g0, r0) =>
      match takeGroup r0 with
      | some (g1, r) => decodeTail (.ctrl16 g0 g1) r
      | none => .error .incomplete
  | none => .error .incomplete

/-- A control frame of three groups, after its first two bytes. -/
def decodeCtrl24 (bs : List Byte) : Except DecodeError (Instr × List Byte) :=
  match takeGroup bs with
  | some (g0, r0) =>
      match takeGroup r0 with
      | some (g1, r1) =>
          match takeGroup r1 with
          | some (g2, r) => decodeTail (.ctrl24 g0 g1 g2) r
          | none => .error .incomplete
      | none => .error .incomplete
  | none => .error .incomplete

/-- A control frame (30_encoding.md R60, R61, R64). -/
def decodeControl : List Byte → Except DecodeError (Instr × List Byte)
  | size :: header :: rest =>
      if header ≠ Config.ctrlHeader then .error .badHeader
      else if size = 0x0D then decodeCtrl8 rest
      else if size = 0x18 then decodeCtrl16 rest
      else if size = 0x23 then decodeCtrl24 rest
      else .error .badSize
  | _ => .error .incomplete

/-- A link frame; `mk` is `DL` or `UL` by position (30_encoding.md R63, R73). -/
def decodeLink (mk : Byte → Byte → Word16 → Word → Byte → Instr) :
    List Byte → Except DecodeError (Instr × List Byte)
  | [] => .error .incomplete
  | size :: r =>
      if size ≠ Config.linkSize then .error .notLinkSize
      else match r with
        | dev :: prim :: a0 :: a1 :: d0 :: d1 :: d2 :: d3 :: c :: rest =>
            .ok (mk dev prim (le16 a0 a1) (le32 d0 d1 d2 d3) c, rest)
        | _ => .error .incomplete

/-- A state row from its code (10_state.md R12). -/
def decodeState : List Byte → Except DecodeError (Instr × List Byte)
  | [] => .error .incomplete
  | c :: rest =>
      match c.toNat with
      | 0 => .ok (.syncing, rest)
      | 1 => .ok (.readControl, rest)
      | 2 => .ok (.readDownlink, rest)
      | 3 => .ok (.waitWriteUplink, rest)
      | 4 => .ok (.writeUplink, rest)
      | 5 => .ok (.readUplink, rest)
      | 6 => .error .unreachableState
      | 7 => .error .unreachableState
      | _ => .error .badSelector

/-- The operand of `PUBLISH` and `DECODE_CHANNELS`: the number of groups less one, the
groups, status and quality (log 9). -/
def decodeBody : List Byte → Option ControlBody
  | [] => none
  | k :: bs =>
      match takeGroup bs with
      | none => none
      | some (g0, r0) =>
          if k = 0 then
            match r0 with
            | [st, q] => some { groups := .one g0, status := st, quality := q }
            | _ => none
          else
            match takeGroup r0 with
            | none => none
            | some (g1, r1) =>
                if k = 1 then
                  match r1 with
                  | [st, q] => some { groups := .two g0 g1, status := st, quality := q }
                  | _ => none
                else
                  match takeGroup r1 with
                  | none => none
                  | some (g2, r2) =>
                      if k = 2 then
                        match r2 with
                        | [st, q] =>
                            some { groups := .three g0 g1 g2, status := st, quality := q }
                        | _ => none
                      else none

/-- A decoded operation that has used all its operand bytes. -/
def opDone (i : Option Instr) : Except DecodeError (Instr × List Byte) :=
  match i with
  | some i => .ok (i, [])
  | none => .error .badOperand

/-- Operands of `FOLD`: a 16-bit value, low byte first. -/
def decodeFold : List Byte → Option Instr
  | [a, b] => some (.fold (le16 a b))
  | _ => none

/-- Operands of `CHECK` and `VALIDATE_CONTROL`: at least two bytes. -/
def decodeSeq2 (mk : Byte → Byte → List Byte → Instr) : List Byte → Option Instr
  | b0 :: b1 :: rest => some (mk b0 b1 rest)
  | _ => none

/-- Operands of `BUILD_UPLINK`: device, application id, data. -/
def decodeBuildUplink : List Byte → Option Instr
  | [dev, a0, a1, d0, d1, d2, d3] =>
      some (.buildUplink dev { appId := le16 a0 a1, data := le32 d0 d1 d2 d3 })
  | _ => none

/-- Operands of `UNPACK11`: 11 bytes, then an index 0 to 7. -/
def decodeUnpack11 (bs : List Byte) : Option Instr :=
  match takeGroup bs with
  | some (g, [i]) => if h : i.toNat < 8 then some (.unpack11 g ⟨i.toNat, h⟩) else none
  | _ => none

/-- Operands of `PACK11`: eight 16-bit values, low byte first. -/
def decodePack11 : List Byte → Option Instr
  | [a0, b0, a1, b1, a2, b2, a3, b3, a4, b4, a5, b5, a6, b6, a7, b7] =>
      some (.pack11 (le16 a0 b0).toNat (le16 a1 b1).toNat (le16 a2 b2).toNat
        (le16 a3 b3).toNat (le16 a4 b4).toNat (le16 a5 b5).toNat (le16 a6 b6).toNat
        (le16 a7 b7).toNat)
  | _ => none

/-- Operand of `RAW2PULSE`: 16 bits, low byte first, at most 2047. -/
def decodeRaw2pulse : List Byte → Option Instr
  | [a, b] =>
      if (le16 a b).toNat < 2048 then some (.raw2pulse (BitVec.ofNat 11 (le16 a b).toNat))
      else none
  | _ => none

/-- Operand of `PULSE2RAW`: 32 bits, low byte first. -/
def decodePulse2raw : List Byte → Option Instr
  | [a, b, c, d] => some (.pulse2raw (le32 a b c d).toNat)
  | _ => none

/-- Operand of `HOST_PUSH`: application id, data. -/
def decodeHostPush : List Byte → Option Instr
  | [a0, a1, d0, d1, d2, d3] =>
      some (.hostPush { appId := le16 a0 a1, data := le32 d0 d1 d2 d3 })
  | _ => none

/-- An operation without operands. -/
def decodeNoOperand (i : Instr) : List Byte → Option Instr
  | [] => some i
  | _ => none

/-- An operation row from its number and operand bytes (30_encoding.md R75, R76; log 9). -/
def decodeOp : List Byte → Except DecodeError (Instr × List Byte)
  | [] => .error .incomplete
  | n :: bs =>
      match n.toNat with
      | 0 => opDone (decodeFold bs)
      | 1 => opDone (some (.csum bs))
      | 2 => opDone (decodeSeq2 .check bs)
      | 3 => opDone (decodeSeq2 .validateControl bs)
      | 4 => opDone (some (.validateLink bs))
      | 5 => opDone (decodeBuildUplink bs)
      | 6 => opDone (decodeUnpack11 bs)
      | 7 => opDone (decodePack11 bs)
      | 8 => opDone (decodeRaw2pulse bs)
      | 9 => opDone (decodePulse2raw bs)
      | 10 => opDone ((decodeBody bs).map .decodeChannels)
      | 11 => opDone (decodeHostPush bs)
      | 12 => opDone (decodeNoOperand .pop bs)
      | 13 => opDone ((decodeBody bs).map .publish)
      | 14 => opDone (decodeNoOperand .hostSnapshot bs)
      | 15 => opDone (decodeNoOperand .reset bs)
      | _ => .error .badSelector

/-- The decoder: the instruction at the front of the bytes and the bytes after it. -/
def decode (p : Place) (bs : List Byte) : Except DecodeError (Instr × List Byte) :=
  match p with
  | .control => decodeControl bs
  | .downlink => decodeLink .dl bs
  | .uplink => decodeLink .ul bs
  | .stateCode => decodeState bs
  | .opNumber => decodeOp bs

/-! ### The encoder -/

/-- The selector space of each row (30_encoding.md R75). -/
def placeOf : Instr → Place
  | .ctrl8 .. => .control
  | .ctrl16 .. => .control
  | .ctrl24 .. => .control
  | .dl .. => .downlink
  | .ul .. => .uplink
  | .syncing => .stateCode
  | .readControl => .stateCode
  | .readDownlink => .stateCode
  | .waitWriteUplink => .stateCode
  | .writeUplink => .stateCode
  | .readUplink => .stateCode
  | .fold _ => .opNumber
  | .csum _ => .opNumber
  | .check .. => .opNumber
  | .validateControl .. => .opNumber
  | .validateLink _ => .opNumber
  | .buildUplink .. => .opNumber
  | .unpack11 .. => .opNumber
  | .pack11 .. => .opNumber
  | .raw2pulse _ => .opNumber
  | .pulse2raw _ => .opNumber
  | .decodeChannels _ => .opNumber
  | .hostPush _ => .opNumber
  | .pop => .opNumber
  | .publish _ => .opNumber
  | .hostSnapshot => .opNumber
  | .reset => .opNumber

/-- The bytes of a control body operand (log 9). -/
def bodyBytes (f : ControlBody) : List Byte :=
  BitVec.ofNat 8 (f.groups.count - 1) ::
    (f.groups.list.flatMap groupBytes ++ [f.status, f.quality])

/-- The bytes of an item operand (log 9). -/
def itemBytes (item : TelemetryItem) : List Byte :=
  bytesLE16 item.appId ++ bytesLE32 item.data

/-- A natural number as a 16-bit operand. -/
def natBytes16 (n : Nat) : List Byte := bytesLE16 (BitVec.ofNat 16 n)

/-- The encoder. Frames: 30_encoding.md R61, R63. States: 10_state.md R12. Operations:
30_encoding.md R76, operands log 9. -/
def encode : Instr → List Byte
  | .ctrl8 g0 st q c => controlBytes (.one g0) st q c
  | .ctrl16 g0 g1 st q c => controlBytes (.two g0 g1) st q c
  | .ctrl24 g0 g1 g2 st q c => controlBytes (.three g0 g1 g2) st q c
  | .dl dev prim app data c => linkBytes dev prim app data c
  | .ul dev prim app data c => linkBytes dev prim app data c
  | .syncing => [0]
  | .readControl => [1]
  | .readDownlink => [2]
  | .waitWriteUplink => [3]
  | .writeUplink => [4]
  | .readUplink => [5]
  | .fold s => 0 :: bytesLE16 s
  | .csum b => 1 :: b
  | .check b0 b1 rest => 2 :: b0 :: b1 :: rest
  | .validateControl b0 b1 rest => 3 :: b0 :: b1 :: rest
  | .validateLink f => 4 :: f
  | .buildUplink dev item => 5 :: dev :: itemBytes item
  | .unpack11 b i => 6 :: (groupBytes b ++ [BitVec.ofNat 8 i.val])
  | .pack11 r0 r1 r2 r3 r4 r5 r6 r7 =>
      7 :: (natBytes16 r0 ++ natBytes16 r1 ++ natBytes16 r2 ++ natBytes16 r3 ++
        natBytes16 r4 ++ natBytes16 r5 ++ natBytes16 r6 ++ natBytes16 r7)
  | .raw2pulse raw => 8 :: natBytes16 raw.toNat
  | .pulse2raw pulse => 9 :: bytesLE32 (BitVec.ofNat 32 pulse)
  | .decodeChannels f => 10 :: bodyBytes f
  | .hostPush item => 11 :: itemBytes item
  | .pop => [12]
  | .publish f => 13 :: bodyBytes f
  | .hostSnapshot => [14]
  | .reset => [15]

/-! ### The opcode table's words (log 10) -/

/-- `n` 16-bit words of `w`, the lowest word first, each with its high byte first. -/
def wordBytes : Nat → Nat → List Byte
  | 0, _ => []
  | n + 1, w => BitVec.ofNat 8 (w / 256) :: BitVec.ofNat 8 w :: wordBytes n (w / 65536)

/-- The bytes of a frame whose table word is `w`: 16-bit words, each with its high byte
first (30_encoding.md R75: the selector is `f[0] << 8 | f[1]`), the first word first; 38
bytes, the longest frame. -/
def tableBytes (w : Nat) : List Byte := wordBytes 19 w

/-- How many operand bytes an operation has at least: the zeros a table word stands for. -/
def minOperands : Nat → Nat
  | 0 => 2
  | 2 => 2
  | 3 => 2
  | 5 => 7
  | 6 => 12
  | 7 => 16
  | 8 => 2
  | 9 => 4
  | 10 => 14
  | 11 => 6
  | 13 => 14
  | _ => 0

/-- The instruction of a decoder's answer. -/
def decodedInstr : Except DecodeError (Instr × List Byte) → Option Instr
  | .ok (i, _) => some i
  | .error _ => none

/-- The place a frame's first byte is read in, where the table alone is given: a link frame
as a downlink frame (30_encoding.md R60, R73; log 10). -/
def framePlace (bs : List Byte) : Place :=
  if bs.head? = some Config.linkSize then .downlink else .control

/-- The instruction the decoder reads from a table word. Frame rows have 16 bits; of the
8-bit words, which state rows (3 bits) and operation rows (4 bits) share, 0 to 5 are read
as state codes unless `nbits` is 4, the others as operation numbers (log 10). -/
def decodeTableWord (nbits w : Nat) : Option Instr :=
  if nbits > 8 then
    decodedInstr (decode (framePlace (tableBytes w)) (tableBytes w))
  else if nbits ≤ 3 ∨ (nbits ≠ 4 ∧ w < 6) then
    decodedInstr (decode .stateCode [BitVec.ofNat 8 w])
  else
    decodedInstr (decode .opNumber (BitVec.ofNat 8 w :: List.replicate (minOperands w) 0))

end Sys2Proof
end

