-- ==== Sys2Proof/Machine/State.lean ====
section
/-! DEFINITION. The state of the machine (10_state.md R10 to R34), the moves of its four
agents (00_scope.md R8), the reasons a step can stop, and the state after reset. -/

namespace Sys2Proof.Machine

open Sys2Proof

/-- `state`, the block's program counter (10_state.md R11, R12). -/
inductive LinkState where
  | syncing
  | readControl
  | readDownlink
  | waitWriteUplink
  | writeUplink
  | readUplink
  deriving DecidableEq, Repr

/-- What a `DownlinkFrameError` records (60_exceptions.md R221). -/
inductive DownlinkCause where
  | shape
  | checksum
  deriving DecidableEq, Repr

/-- The events, in the order of their codes 1 to 8 (60_exceptions.md R221). -/
inductive Event where
  | syncLoss
  | controlFrameError
  | downlinkFrameError (cause : DownlinkCause)
  | uplinkFrameError
  | uplinkWindowMissed
  | outboxOverflow
  | snapshotRetry
  /-- Code 8: never raised by a running machine (R221, U21). -/
  | initUnavailable
  deriving DecidableEq, Repr

/-- The fields of the shared channel block that are accessed; `reserved` is not among them
(10_state.md R15, R20). -/
inductive Field where
  | generation
  | flags
  | quality
  | channelCount
  | channel (i : Fin 24)
  deriving DecidableEq, Repr

/-- A ChannelSnapshot (10_state.md R30). -/
structure Snapshot where
  generation : Word
  flags : Byte
  quality : Byte
  channelCount : Byte
  channels : Vector Word 24
  deriving DecidableEq, Repr

/-- A snapshot attempt in progress: `g1`, the fields still to load, and the partial copy
(10_state.md R31, 44_shared_block.md R186). What the copy holds in a field still to load is the
model's choice (log 23). -/
structure Copy where
  g1 : Word
  pending : List Field
  partialCopy : Snapshot
  deriving DecidableEq, Repr

/-- What `HOST_SNAPSHOT` returns (44_shared_block.md R186). -/
inductive PollResult where
  | noChange
  | retry
  | newData
  deriving DecidableEq, Repr

/-- A step of HOST (00_scope.md R8): one load of a snapshot attempt, or one push, in any order
(log 24). -/
inductive HostMove where
  /-- The next load; among the field loads still to do, number `pick` modulo their count. -/
  | load (pick : Nat)
  | push (item : TelemetryItem)
  deriving DecidableEq, Repr

/-- An event inside a publish (44_shared_block.md R185): the LSM's next store, or a step of
HOST that falls between two stores. -/
inductive PublishMove where
  /-- Among the field stores still to do, number `pick` modulo their count; the generation
  store when none is left. -/
  | store (pick : Nat)
  | host (m : HostMove)
  deriving DecidableEq, Repr

/-- A move of one of the agents, or a call of an operation row (log 6, log 19). -/
inductive Move where
  /-- One step of the LSM. -/
  | lsm
  /-- LINE appends a byte (42_link_fsm.md R135 (a)). -/
  | line (b : Byte)
  /-- LINE echoes the oldest byte not yet echoed (42_link_fsm.md R135 (b)). -/
  | echo
  /-- CLOCK adds `n`, which is positive (42_link_fsm.md R136). -/
  | tick (n : Nat)
  /-- One step of HOST. -/
  | host (m : HostMove)
  /-- An operation row executed whole: `poll` is `call hostSnapshot` (30_encoding.md R74). -/
  | call (i : Instr)
  deriving DecidableEq, Repr

/-- The value an operation row returned; the model's own, as the event log is (log 5). -/
inductive Ret where
  | none
  /-- `FOLD`, `CSUM`. -/
  | byte (b : Byte)
  /-- `CHECK`. -/
  | bool (b : Bool)
  /-- `VALIDATE_CONTROL`: `some G` is Ok(G), `none` is Bad. -/
  | control (G : Option Nat)
  /-- `VALIDATE_LINK`: `some d` is Ok(d), `none` is Bad. -/
  | link (device : Option Byte)
  /-- `BUILD_UPLINK`, `PACK11`. -/
  | bytes (bs : List Byte)
  /-- `UNPACK11`, `PULSE2RAW`. -/
  | raw (r : Nat)
  /-- `RAW2PULSE`. -/
  | pulse (p : Nat)
  /-- `DECODE_CHANNELS`. -/
  | channels (cs : List Nat)
  /-- `POP`. -/
  | item (i : Option TelemetryItem)
  /-- `HOST_SNAPSHOT`. -/
  | poll (r : PollResult)
  deriving DecidableEq, Repr

/-- The block has no fault: no trap, no stop (60_exceptions.md R220, 42_link_fsm.md R151 (f);
log 21). No constructor: nobody raises one. -/
inductive Fault where
  deriving DecidableEq, Repr

/-- Why a step is refused. Each is safe: the machine stops where the spec gives it no move. -/
inductive Refusal where
  /-- Raised by `exec` alone, for an instruction without a meaning. Safe. -/
  | notModelled (mnemonic : String)
  /-- Raised by `step`: the link device or the shared memory is unavailable, so the machine
  is not started (U21, 70_reset_and_hazards.md R252 (a)). Safe. -/
  | initUnavailable
  /-- Raised by `step`: a configuration outside the spec (U6, 20_memory.md R45). Safe. -/
  | badConfiguration
  /-- Raised by the frame rows: the frame is not at the front of `rx` (log 12). Safe. -/
  | frameNotReceived
  /-- Raised by `step` for `Move.echo` when `LINE_ECHO` is false or no byte is left to echo:
  LINE has no such step (42_link_fsm.md R135). Safe. -/
  | noEcho
  /-- Raised by `step` for `Move.tick 0`: CLOCK adds a positive amount (R136). Safe. -/
  | noTick
  /-- Raised by `step` for `Move.call` of a row that is no operation: the LSM alone executes
  state and frame rows (42_link_fsm.md R138; log 19). Safe. -/
  | notAnOperation
  deriving DecidableEq, Repr

/-- The state (10_state.md R10), then the model's own fields. -/
structure State where
  /-- `state` (R11). -/
  state : LinkState
  /-- `t_dl` (R13). -/
  tDl : Word
  /-- `txbuf` (R14). -/
  txbuf : Vector Byte 10
  /-- Shared memory, the shared channel block in it (R15 to R21; 20_memory.md R40). -/
  mem : List Host.Cell
  /-- Outbox `slots` (R23). -/
  slots : Vector TelemetryItem 8
  /-- Outbox `head`, a free-running count (R23; 90_conflicts.md C3). -/
  head : BitVec 8
  /-- Outbox `tail`, a free-running count (R23; 90_conflicts.md C3). -/
  tail : BitVec 8
  /-- `rx`, front first (R26). -/
  rx : List Byte
  /-- `tx`, every byte transmitted, oldest first (R27). -/
  tx : List Byte
  /-- How many of the oldest bytes of `tx` LINE has marked echoed (42_link_fsm.md R135). -/
  echoed : Nat
  /-- `cyc` (R28). -/
  cyc : Word
  /-- `last_seen` (R29). -/
  lastSeen : Word
  /-- `snap` (R30). -/
  snap : Option Snapshot
  /-- The snapshot attempt in progress (R31). -/
  copy : Option Copy
  /-- `events`, oldest first (R32). -/
  events : List Event
  /-- MODEL: the parameters, constant for a run (log 1, log 2). -/
  params : Params
  /-- MODEL: the agents' moves still to come (log 6). -/
  agenda : List Move
  /-- MODEL: for each coming publish, its store order and what HOST does inside (log 7). -/
  plans : List (List PublishMove)
  /-- MODEL: the value the last operation row returned (log 5). -/
  ret : Ret
  /-- MODEL: the counter of the free values (log 4). -/
  freeCtr : Nat
  deriving DecidableEq, Repr

/-- The state right after reset (10_state.md R34, 70_reset_and_hazards.md R250). The spec
states no value for `tDl`, `txbuf`, `slots` and `cyc`: DESIGN CHOICE zero (log 3). Memory
lists nothing: the block reads 0. -/
def State.reset : State where
  state := .syncing
  tDl := 0
  txbuf := Vector.replicate 10 0
  mem := []
  slots := Vector.replicate 8 TelemetryItem.zero
  head := 0
  tail := 0
  rx := []
  tx := []
  echoed := 0
  cyc := 0
  lastSeen := 0
  snap := none
  copy := none
  events := []
  params := Params.initial
  agenda := []
  plans := []
  ret := .none
  freeCtr := 0

end Sys2Proof.Machine
end

