-- ==== Sys2Proof/Machine/Operands.lean ====
section
/-! DEFINITION. Operand forms: how an operation reads a field out of a byte sequence
(00_scope.md R7, 30_encoding.md R65). The byte-order helpers stand in Sys2Proof/Decode.lean. -/

namespace Sys2Proof.Machine

open Sys2Proof

/-- `f[i]`; 0 past the end, where no rule reads. -/
def byteOf (f : List Byte) (i : Nat) : Byte := f.getD i 0

/-- Packed group `g` of a control frame: bytes `2 + 11*g` to `12 + 11*g` as one 88-bit
integer (30_encoding.md R61, 41_channels.md R112). -/
def groupOf (f : List Byte) (g : Nat) : Group :=
  match takeGroup (f.drop (2 + Config.groupBytes * g)) with
  | some (w, _) => w
  | none => 0

/-- `L = 11*G + 5`, the length of a control frame of `G` groups (30_encoding.md R61). -/
def controlLen (G : Nat) : Nat := Config.groupBytes * G + 5

/-- The status byte of a control frame of `G` groups (30_encoding.md R61). -/
def statusOf (f : List Byte) (G : Nat) : Byte := byteOf f (Config.groupBytes * G + 2)

/-- The quality byte of a control frame of `G` groups (30_encoding.md R61). -/
def qualityOf (f : List Byte) (G : Nat) : Byte := byteOf f (Config.groupBytes * G + 3)

/-- The device id of a link frame (30_encoding.md R63). -/
def deviceOf (f : List Byte) : Byte := byteOf f 1

/-- The primitive of a link frame (30_encoding.md R63). -/
def primitiveOf (f : List Byte) : Byte := byteOf f 2

/-- `app_id` of a link frame, least significant byte first (30_encoding.md R63, R65 (b)). -/
def appIdOf (f : List Byte) : Word16 := le16 (byteOf f 3) (byteOf f 4)

/-- `data` of a link frame, least significant byte first (30_encoding.md R63, R65 (c)). -/
def dataOf (f : List Byte) : Word :=
  le32 (byteOf f 5) (byteOf f 6) (byteOf f 7) (byteOf f 8)

end Sys2Proof.Machine
end

