-- ==== Sys2Proof/Machine/Ops.lean ====
section
/-! DEFINITION. The shared operations: shared memory (20_memory.md R40 to R50), the byte
streams and the counter (42_link_fsm.md R130 to R136), the event log, the state register,
error entry (60_exceptions.md R220, R233), returned values, configuration (U6, U21). -/

namespace Sys2Proof.Machine

open Sys2Proof

/-! ### Shared memory: bytes -/

/-- What an unlisted byte reads as: 0, the reset contents of the block (10_state.md R15,
D12); for the rest of shared memory, which no rule reads, DESIGN CHOICE (log 14). -/
def Memory.unlisted : Byte := 0

/-- The canonical form: addresses strictly rising, no byte listed that reads as unlisted. -/
def Memory.wf : List Host.Cell → Bool
  | [] => true
  | c :: m => c.2 != Memory.unlisted && m.all (fun d => decide (c.1 < d.1)) && Memory.wf m

/-- The byte at an address. -/
def Memory.read : List Host.Cell → Nat → Byte
  | [], _ => Memory.unlisted
  | c :: m, a => if c.1 = a then c.2 else Memory.read m a

/-- Insert a cell before the first one with a higher address. -/
def Memory.insert (a : Nat) (v : Byte) : List Host.Cell → List Host.Cell
  | [] => [(a, v)]
  | c :: m => if a < c.1 then (a, v) :: c :: m else c :: Memory.insert a v m

/-- Take out every cell whose address `p` accepts. -/
def Memory.erase (p : Nat → Bool) (m : List Host.Cell) : List Host.Cell :=
  m.filter fun c => !p c.1

/-- Store a byte, keeping the canonical form. -/
def Memory.write (m : List Host.Cell) (a : Nat) (v : Byte) : List Host.Cell :=
  let m' := Memory.erase (fun b => decide (b = a)) m
  if v = Memory.unlisted then m' else Memory.insert a v m'

/-- `n` bytes from `a`, least significant at `a` (20_memory.md R44). -/
def Memory.readLE (m : List Host.Cell) (a : Nat) : Nat → Nat
  | 0 => 0
  | n + 1 => (Memory.read m a).toNat + 256 * Memory.readLE m (a + 1) n

/-- Store the low `n` bytes of `v` from `a`, least significant at `a` (20_memory.md R44). -/
def Memory.writeLE (m : List Host.Cell) (a : Nat) : Nat → Nat → List Host.Cell
  | 0, _ => m
  | n + 1, v => Memory.writeLE (Memory.write m a (BitVec.ofNat 8 v)) (a + 1) n (v / 256)

/-- `MemRead(addr, n)` (00_scope.md R7). -/
def memRead (s : State) (addr n : Nat) : Nat := Memory.readLE s.mem addr n

/-- `MemWrite(addr, n, v)` (00_scope.md R7). -/
def memWrite (addr n v : Nat) (s : State) : State :=
  { s with mem := Memory.writeLE s.mem addr n v }

/-! ### Shared memory: the fields of the block (10_state.md R15, 20_memory.md R47) -/

/-- Offset from `SCB_BASE` (10_state.md R15). -/
def Field.offset : Field → Nat
  | .generation => 0
  | .flags => 4
  | .quality => 5
  | .channelCount => 6
  | .channel i => 8 + 4 * i.val

/-- Width in bytes (20_memory.md R47). -/
def Field.width : Field → Nat
  | .generation => 4
  | .flags => 1
  | .quality => 1
  | .channelCount => 1
  | .channel _ => 4

/-- Offset of `reserved`, which nothing accesses (10_state.md R20). -/
def reservedOffset : Nat := 7

/-- The 27 fields other than `generation`, in the listing order of 44_shared_block.md R180. -/
def dataFields : List Field :=
  [.flags, .quality, .channelCount,
    .channel 0, .channel 1, .channel 2, .channel 3, .channel 4, .channel 5,
    .channel 6, .channel 7, .channel 8, .channel 9, .channel 10, .channel 11,
    .channel 12, .channel 13, .channel 14, .channel 15, .channel 16, .channel 17,
    .channel 18, .channel 19, .channel 20, .channel 21, .channel 22, .channel 23]

/-- One load of a field at its width: one atomic access (20_memory.md R47). -/
def loadField (s : State) (f : Field) : Nat :=
  memRead s (s.params.scbBase + f.offset) f.width

/-- One store of a field at its width: one atomic access (20_memory.md R47). -/
def storeField (f : Field) (v : Nat) (s : State) : State :=
  memWrite (s.params.scbBase + f.offset) f.width v s

/-- The address is one of the 104 bytes of the block (10_state.md R15, 20_memory.md R46). -/
def inBlock (s : State) (a : Nat) : Bool :=
  decide (s.params.scbBase ≤ a) && decide (a < s.params.scbBase + Config.scbSize)

/-! ### Byte streams and the cycle counter -/

/-- `RxAvail()` (42_link_fsm.md R131). -/
def rxAvail (s : State) : Nat := s.rx.length

/-- `RxPeek(i)`; none where it is not defined (42_link_fsm.md R132, U5). -/
def rxPeek (s : State) (i : Nat) : Option Byte := s.rx[i]?

/-- `[RxPeek(0), ..., RxPeek(n-1)]`. -/
def rxFront (s : State) (n : Nat) : List Byte := s.rx.take n

/-- `RxDrop(n)`, called only with `n ≤ RxAvail()` (42_link_fsm.md R133, U5). -/
def rxDrop (n : Nat) (s : State) : State := { s with rx := s.rx.drop n }

/-- `TxWrite(b)` (42_link_fsm.md R134). -/
def txWrite (b : List Byte) (s : State) : State := { s with tx := s.tx ++ b }

/-- `Cyc()` (42_link_fsm.md R136). -/
def readCyc (s : State) : Word := s.cyc

/-! ### Control -/

/-- `raise Ev` (00_scope.md R7). -/
def raise (e : Event) (s : State) : State := { s with events := s.events ++ [e] }

/-- `state <- S` (00_scope.md R7). -/
def goTo (st : LinkState) (s : State) : State := { s with state := st }

/-- Error entry: the event is logged and `state` is overwritten; nothing is saved, and `rx`,
`tx`, the outbox and the block are left as they are (60_exceptions.md R220, R233). There is
no return from it: recovery is the ordinary operation of `Syncing` (R234). -/
def errorEntry (e : Event) (st : LinkState) (s : State) : State := goTo st (raise e s)

/-- Hand a value to the caller of an operation row (log 5). -/
def answer (r : Ret) (s : State) : State := { s with ret := r }

/-! ### Codes of the spec's own numbering -/

/-- The 3-bit code of `state` (10_state.md R12). -/
def LinkState.code : LinkState → Nat
  | .syncing => 0
  | .readControl => 1
  | .readDownlink => 2
  | .waitWriteUplink => 3
  | .writeUplink => 4
  | .readUplink => 5

/-- The code of an event (60_exceptions.md R221). -/
def Event.code : Event → Nat
  | .syncLoss => 1
  | .controlFrameError => 2
  | .downlinkFrameError _ => 3
  | .uplinkFrameError => 4
  | .uplinkWindowMissed => 5
  | .outboxOverflow => 6
  | .snapshotRetry => 7
  | .initUnavailable => 8

/-! ### Configuration -/

/-- The configuration is one the spec gives a meaning to (00_scope.md R6, 20_memory.md R45,
U6): the base is a multiple of 4 and `T_MIN <= T_MAX < 2^31`. -/
def paramsOk (p : Params) : Bool :=
  decide (p.scbBase % 4 = 0) && decide (p.tMin ≤ p.tMax) && decide (p.tMax < 2 ^ 31)

end Sys2Proof.Machine
end

