-- ==== Sys2Proof/Machine/Codec.lean ====
section
/-! DEFINITION. The frame codec: checksum, validation, uplink construction (40_codec.md R90 to
R99) and the meanings of its six operation rows. Each reads its operands and the parameters,
changes nothing and hands its result to the caller (R90, log 5). -/

namespace Sys2Proof.Machine

open Sys2Proof

/-- The loop of `FOLD`, at most `n` iterations (R91). -/
def foldLoop : Nat → Nat → Nat
  | 0, s => s
  | n + 1, s => if s > 0xFF then foldLoop n ((s &&& 0xFF) + (s >>> 8)) else s

/-- `FOLD(s)`: two iterations are enough for 16 bits (R91). -/
def foldSum (s : Word16) : Byte := BitVec.ofNat 8 (foldLoop 2 s.toNat)

/-- The 16-bit accumulator of `CSUM`, wrapping (R92, D2). -/
def csumAcc (b : List Byte) : Word16 := b.foldl (fun acc x => acc + x.setWidth 16) 0

/-- `CSUM(b)` (R92). -/
def csum (b : List Byte) : Byte := 0xFF - foldSum (csumAcc b)

/-- `COVERED(f)` (R93). -/
def covered (p : Params) (f : List Byte) : List Byte :=
  if p.csumCoversSize then f.dropLast else f.dropLast.drop 1

/-- `CHECK(f)`: equality of the last byte with the checksum (R94). -/
def check (p : Params) (f : List Byte) : Bool :=
  decide (f.getLast? = some (csum (covered p f)))

/-- `CONTROL_SHAPE(b0, b1)`: the group count, or none (R95). -/
def controlShape (b0 b1 : Byte) : Option Nat :=
  if b1 ≠ Config.ctrlHeader then none
  else if b0 = 0x0D then some 1
  else if b0 = 0x18 then some 2
  else if b0 = 0x23 then some 3
  else none

/-- `VALIDATE_CONTROL(f)`: `some G` for Ok(G), none for Bad (R95). -/
def validateControl (p : Params) (f : List Byte) : Option Nat :=
  match controlShape (byteOf f 0) (byteOf f 1) with
  | none => none
  | some G =>
      if f.length ≠ controlLen G then none
      else if check p f then some G
      else none

/-- `LINK_SHAPE(b0)` (R96). -/
def linkShape (b0 : Byte) : Bool := decide (b0 = Config.linkSize)

/-- `VALIDATE_LINK(f)`: `some d` for Ok(d), none for Bad (R96). -/
def validateLink (p : Params) (f : List Byte) : Option Byte :=
  if f.length ≠ Config.linkFrameLen then none
  else if !linkShape (byteOf f 0) then none
  else if !check p f then none
  else if p.checkPrimOnRx && decide (primitiveOf f ≠ Config.linkPrim) then none
  else some (deviceOf f)

/-- The checksum byte of an uplink frame with this body (R98). -/
def linkChecksum (p : Params) (body : List Byte) : Byte :=
  if p.csumCoversSize then csum (Config.linkSize :: body) else csum body

/-- `BUILD_UPLINK(dev, item)`: 10 bytes (R98). -/
def buildUplink (p : Params) (dev : Byte) (item : TelemetryItem) : Vector Byte 10 :=
  ⟨(linkBytes dev Config.linkPrim item.appId item.data
      (linkChecksum p (linkBody dev Config.linkPrim item.appId item.data))).toArray, rfl⟩

/-- The checksum byte of a control frame with these groups, status and quality (R61, R92,
R93). -/
def controlChecksum (p : Params) (gs : Groups) (status quality : Byte) : Byte :=
  if p.csumCoversSize then csum (controlHead gs status quality)
  else csum ((controlHead gs status quality).drop 1)

/-- The control frame of a body, with its checksum (30_encoding.md R61, R74). -/
def controlFrame (p : Params) (f : ControlBody) : List Byte :=
  controlBytes f.groups f.status f.quality (controlChecksum p f.groups f.status f.quality)

/-! ### The operation rows -/

/-- `FOLD` (R91). -/
def execFold (a : Word16) (s : State) : Host.Outcome State Fault Refusal :=
  .next (answer (.byte (foldSum a)) s)

/-- `CSUM` (R92). -/
def execCsum (b : List Byte) (s : State) : Host.Outcome State Fault Refusal :=
  .next (answer (.byte (csum b)) s)

/-- `CHECK` (R94). -/
def execCheck (b0 b1 : Byte) (rest : List Byte) (s : State) :
    Host.Outcome State Fault Refusal :=
  .next (answer (.bool (check s.params (b0 :: b1 :: rest))) s)

/-- `VALIDATE_CONTROL` (R95). -/
def execValidateControl (b0 b1 : Byte) (rest : List Byte) (s : State) :
    Host.Outcome State Fault Refusal :=
  .next (answer (.control (validateControl s.params (b0 :: b1 :: rest))) s)

/-- `VALIDATE_LINK` (R96). -/
def execValidateLink (f : List Byte) (s : State) : Host.Outcome State Fault Refusal :=
  .next (answer (.link (validateLink s.params f)) s)

/-- `BUILD_UPLINK` (R98). -/
def execBuildUplink (dev : Byte) (item : TelemetryItem) (s : State) :
    Host.Outcome State Fault Refusal :=
  .next (answer (.bytes (buildUplink s.params dev item).toList) s)

end Sys2Proof.Machine
end

