-- ==== Sys2Proof/Machine/Channels.lean ====
section
/-! DEFINITION. The channel decoder and encoder and the scaling (41_channels.md R110 to R116)
and the meanings of their five operation rows. Arithmetic is on natural numbers (00_scope.md
R7). -/

namespace Sys2Proof.Machine

open Sys2Proof

/-- `UNPACK11(b, i)`: bits `11*i + 10 : 11*i` of the 88-bit integer (R110). -/
def unpack11 (b : Group) (i : Nat) : BitVec 11 := b.extractLsb' (11 * i) 11

/-- `PACK11(r)`: each value reduced to its low 11 bits, `r0` lowest (R111). -/
def pack11 (r0 r1 r2 r3 r4 r5 r6 r7 : Nat) : Group :=
  BitVec.ofNat 11 r7 ++ BitVec.ofNat 11 r6 ++ BitVec.ofNat 11 r5 ++ BitVec.ofNat 11 r4 ++
    BitVec.ofNat 11 r3 ++ BitVec.ofNat 11 r2 ++ BitVec.ofNat 11 r1 ++ BitVec.ofNat 11 r0

/-- `RAW2PULSE(raw)`: clamp, then scale; multiplication before division (R113, D4). -/
def raw2pulse (raw : Nat) : Nat :=
  Config.pulseMin + (max Config.rawMin (min Config.rawMax raw) - Config.rawMin) *
    (Config.pulseMax - Config.pulseMin) / (Config.rawMax - Config.rawMin)

/-- `PULSE2RAW(pulse)` (R114, D24). -/
def pulse2raw (pulse : Nat) : Nat :=
  Config.rawMin + (max Config.pulseMin (min Config.pulseMax pulse) - Config.pulseMin) *
    (Config.rawMax - Config.rawMin) / (Config.pulseMax - Config.pulseMin)

/-- Raw channel `c` of a control frame (R112). -/
def rawChannel (f : List Byte) (c : Nat) : BitVec 11 :=
  unpack11 (groupOf f (c / Config.groupChannels)) (c % Config.groupChannels)

/-- Channel `c` of `DECODE_CHANNELS(f, G)`: a pulse, or UNSET beyond the frame's channels
(R115, D5). -/
def channelValue (f : List Byte) (G c : Nat) : Nat :=
  if c < Config.groupChannels * G then raw2pulse (rawChannel f c).toNat else Config.unset

/-- `DECODE_CHANNELS(f, G)`: 24 values (R115). -/
def decodeChannels (f : List Byte) (G : Nat) : List Nat :=
  (List.range Config.channelsMax).map (channelValue f G)

/-- Group `g` of `ENCODE_CHANNELS` (R116). -/
def encodeGroup (pulses : List Nat) (g : Nat) : Group :=
  let r := fun k => pulse2raw (pulses.getD (Config.groupChannels * g + k) 0)
  pack11 (r 0) (r 1) (r 2) (r 3) (r 4) (r 5) (r 6) (r 7)

/-- `ENCODE_CHANNELS(p, G, status, quality)`, the sender's side, which the state machine never
calls (R116). Outside its domain the model chooses: `G` of 0 gives 1 group and above 3 gives 3, a
missing pulse counts as 0 (DESIGN CHOICE, log 22). -/
def encodeChannels (p : Params) (pulses : List Nat) (G : Nat) (status quality : Byte) :
    List Byte :=
  controlFrame p
    { groups :=
        match G with
        | 0 => .one (encodeGroup pulses 0)
        | 1 => .one (encodeGroup pulses 0)
        | 2 => .two (encodeGroup pulses 0) (encodeGroup pulses 1)
        | _ => .three (encodeGroup pulses 0) (encodeGroup pulses 1) (encodeGroup pulses 2)
      status := status
      quality := quality }

/-! ### The operation rows -/

/-- `UNPACK11` (R110). -/
def execUnpack11 (b : Group) (i : Fin 8) (s : State) : Host.Outcome State Fault Refusal :=
  .next (answer (.raw (unpack11 b i.val).toNat) s)

/-- `PACK11` (R111). -/
def execPack11 (r0 r1 r2 r3 r4 r5 r6 r7 : Nat) (s : State) :
    Host.Outcome State Fault Refusal :=
  .next (answer (.bytes (groupBytes (pack11 r0 r1 r2 r3 r4 r5 r6 r7))) s)

/-- `RAW2PULSE` (R113). -/
def execRaw2pulse (raw : BitVec 11) (s : State) : Host.Outcome State Fault Refusal :=
  .next (answer (.pulse (raw2pulse raw.toNat)) s)

/-- `PULSE2RAW` (R114). -/
def execPulse2raw (pulse : Nat) (s : State) : Host.Outcome State Fault Refusal :=
  .next (answer (.raw (pulse2raw pulse)) s)

/-- `DECODE_CHANNELS` (R115). -/
def execDecodeChannels (f : ControlBody) (s : State) : Host.Outcome State Fault Refusal :=
  .next (answer (.channels (decodeChannels (controlFrame s.params f) f.groups.count)) s)

end Sys2Proof.Machine
end

