-- ==== Sys2Proof/Machine/Outbox.lean ====
section
/-! DEFINITION. The telemetry outbox (43_outbox.md R170 to R175, 10_state.md R23): each
operation is one indivisible step (R175, log 16). -/

namespace Sys2Proof.Machine

open Sys2Proof

/-- The slot an index addresses: `index & 7` (10_state.md R23). -/
def slotOf (index : BitVec 8) : Fin 8 := ⟨index.toNat % 8, Nat.mod_lt _ (by decide)⟩

/-- The item in the slot an index addresses. -/
def slotAt (slots : Vector TelemetryItem 8) (index : BitVec 8) : TelemetryItem :=
  slots[slotOf index]

/-- Put an item into the slot an index addresses. -/
def setSlot (slots : Vector TelemetryItem 8) (index : BitVec 8) (item : TelemetryItem) :
    Vector TelemetryItem 8 :=
  slots.set (slotOf index) item

/-- The number of items held: `(head - tail) mod 256` (10_state.md R23). -/
def outboxCount (s : State) : Nat := (s.head - s.tail).toNat

/-- The items held, oldest first (R170). -/
def outboxItems (s : State) : List TelemetryItem :=
  (List.range (outboxCount s)).map fun k => slotAt s.slots (s.tail + BitVec.ofNat 8 k)

/-- Drop the oldest item of a full ring (R171). -/
def dropOldest (s : State) : State :=
  if outboxCount s = Config.outboxCap then
    raise .outboxOverflow { s with tail := s.tail + 1 }
  else s

/-- `HOST_PUSH(item)` (R171). -/
def pushItem (item : TelemetryItem) (s : State) : State :=
  let t := dropOldest s
  { t with slots := setSlot t.slots t.head item, head := t.head + 1 }

/-- The item `POP()` returns (R172). -/
def popped (s : State) : Option TelemetryItem :=
  if s.head = s.tail then none else some (slotAt s.slots s.tail)

/-- The state `POP()` leaves (R172). -/
def afterPop (s : State) : State :=
  if s.head = s.tail then s else { s with tail := s.tail + 1 }

/-! ### The operation rows -/

/-- `HOST_PUSH` (R171). Nothing is reported to the caller. -/
def execHostPush (item : TelemetryItem) (s : State) : Host.Outcome State Fault Refusal :=
  .next (pushItem item s)

/-- `POP` (R172). -/
def execPop (s : State) : Host.Outcome State Fault Refusal :=
  .next (answer (.item (popped s)) (afterPop s))

end Sys2Proof.Machine
end

