-- ==== Sys2Proof/Machine/SharedBlock.lean ====
section
/-! DEFINITION. The shared channel block: the writer's `PUBLISH`, whose 28 stores HOST can
fall between, and the reader's `HOST_SNAPSHOT` (44_shared_block.md R180 to R190). -/

namespace Sys2Proof.Machine

open Sys2Proof

/-! ### HOST's loads -/

/-- A copy nothing has been loaded into yet, tagged `g1` (R186). The spec gives the fields not
yet loaded no value (10_state.md R31): the zeros are the model's choice, DESIGN CHOICE, log 23. -/
def blankCopy (g1 : Word) : Snapshot where
  generation := g1
  flags := 0
  quality := 0
  channelCount := 0
  channels := Vector.replicate 24 0

/-- Put a loaded value into the copy (R186). -/
def copyField (f : Field) (v : Nat) (c : Snapshot) : Snapshot :=
  match f with
  | .generation => c
  | .flags => { c with flags := BitVec.ofNat 8 v }
  | .quality => { c with quality := BitVec.ofNat 8 v }
  | .channelCount => { c with channelCount := BitVec.ofNat 8 v }
  | .channel i => { c with channels := c.channels.set i (BitVec.ofNat 32 v) }

/-- The first generation load of an attempt (R186). -/
def hostFirstLoad (s : State) : State :=
  let g1 : Word := BitVec.ofNat 32 (loadField s .generation)
  if g1 = s.lastSeen then answer (.poll .noChange) s
  else { s with copy := some { g1 := g1, pending := dataFields, partialCopy := blankCopy g1 } }

/-- A field load of an attempt: number `pick` modulo the count of those left (R186, D36). -/
def hostFieldLoad (pick : Nat) (c : Copy) (s : State) : State :=
  let k := pick % c.pending.length
  let f := c.pending.getD k .generation
  { s with copy := some { c with
      pending := c.pending.eraseIdx k
      partialCopy := copyField f (loadField s f) c.partialCopy } }

/-- The second generation load, which ends the attempt (R186). -/
def hostLastLoad (c : Copy) (s : State) : State :=
  let g2 : Word := BitVec.ofNat 32 (loadField s .generation)
  if g2 ≠ c.g1 then answer (.poll .retry) (raise .snapshotRetry { s with copy := none })
  else answer (.poll .newData)
    { s with copy := none, snap := some { c.partialCopy with generation := c.g1 },
             lastSeen := c.g1 }

/-- HOST's next load: it begins an attempt, or goes on with the one in progress (R186). -/
def hostLoad (pick : Nat) (s : State) : State :=
  match s.copy with
  | none => hostFirstLoad s
  | some c => if c.pending = [] then hostLastLoad c s else hostFieldLoad pick c s

/-- One step of HOST (00_scope.md R8). A push may fall between two loads of one attempt, which
R8 and R186 leave open: DESIGN CHOICE, log 24. -/
def hostMove (m : HostMove) (s : State) : State :=
  match m with
  | .load pick => hostLoad pick s
  | .push item => pushItem item s

/-- `n` loads of HOST with nothing between them. -/
def hostLoads : Nat → State → State
  | 0, s => s
  | n + 1, s => hostLoads n (hostLoad 0 s)

/-- The loads that end the attempt in progress, if there is one. -/
def finishPoll (s : State) : State :=
  match s.copy with
  | none => s
  | some c => hostLoads (c.pending.length + 1) s

/-- `HOST_SNAPSHOT()` with no LSM store between its loads: an attempt already in progress is
brought to its end, otherwise one is made (R186; log 8). -/
def hostSnapshot (s : State) : State :=
  match s.copy with
  | none => finishPoll (hostFirstLoad s)
  | some _ => finishPoll s

/-! ### PUBLISH -/

/-- The 27 field stores of a publish, in the listing order of R180 (R182, R183). -/
def publishStores (f : List Byte) (G : Nat) : List (Field × Nat) :=
  dataFields.map fun fd =>
    match fd with
    | .generation => (fd, 0)
    | .flags => (fd, (statusOf f G).toNat)
    | .quality => (fd, (qualityOf f G).toNat)
    | .channelCount => (fd, Config.groupChannels * G)
    | .channel i => (fd, channelValue f G i.val)

/-- The generation store, last: the previous generation plus 1 modulo 2^32 (R184, D32). -/
def bumpGeneration (s : State) : State :=
  storeField .generation ((loadField s .generation + 1) % 2 ^ 32) s

/-- Field stores with nothing between them. -/
def storeAll : List (Field × Nat) → State → State
  | [], s => s
  | w :: ws, s => storeAll ws (storeField w.1 w.2 s)

/-- The events of a publish (R185): the field stores in the order the plan picks, HOST's steps
where the plan has them, the generation store once no field store is left. Where the plan
ends, the stores left follow in listing order; what stands in the plan after the generation
store is dropped (log 7). -/
def runPublish : List PublishMove → List (Field × Nat) → State → State
  | [], ws, s => bumpGeneration (storeAll ws s)
  | .host m :: ps, ws, s => runPublish ps ws (hostMove m s)
  | .store _ :: _, [], s => bumpGeneration s
  | .store pick :: ps, w :: ws, s =>
      let k := pick % (ws.length + 1)
      let x := (w :: ws).getD k w
      runPublish ps ((w :: ws).eraseIdx k) (storeField x.1 x.2 s)

/-- `PUBLISH(f, G)` under the next plan (R180 to R185). -/
def publish (f : List Byte) (G : Nat) (s : State) : State :=
  runPublish (s.plans.headD []) (publishStores f G) { s with plans := s.plans.tail }

/-! ### The operation rows -/

/-- `PUBLISH` of the control frame of a body, which validates (R180). -/
def execPublish (f : ControlBody) (s : State) : Host.Outcome State Fault Refusal :=
  .next (publish (controlFrame s.params f) f.groups.count s)

/-- `HOST_SNAPSHOT` (R186). -/
def execHostSnapshot (s : State) : Host.Outcome State Fault Refusal :=
  .next (hostSnapshot s)

end Sys2Proof.Machine
end

