-- ==== Sys2Proof/Machine/Lsm.lean ====
section
/-! DEFINITION. The link state machine: the two receive procedures, one rule per state
(42_link_fsm.md R137 to R146, R150), and the meanings of the six state rows. -/

namespace Sys2Proof.Machine

open Sys2Proof

/-- What `TRY_CONTROL` returns (R139). -/
inductive TryControl where
  | wait
  | bad
  | ok (f : List Byte) (G : Nat)
  deriving DecidableEq, Repr

/-- `TRY_CONTROL()` (R139). -/
def tryControl (s : State) : TryControl :=
  match rxPeek s 0, rxPeek s 1 with
  | some b0, some b1 =>
      match controlShape b0 b1 with
      | none => .bad
      | some G =>
          if rxAvail s < controlLen G then .wait
          else if check s.params (rxFront s (controlLen G)) then
            .ok (rxFront s (controlLen G)) G
          else .bad
  | _, _ => .wait

/-- What `TRY_LINK` returns (R142). -/
inductive TryLink where
  | wait
  | noHeader
  | bad
  | ok (f : List Byte)
  deriving DecidableEq, Repr

/-- `TRY_LINK()` (R142). -/
def tryLink (s : State) : TryLink :=
  match rxPeek s 0 with
  | none => .wait
  | some b0 =>
      if !linkShape b0 then .noHeader
      else if rxAvail s < Config.linkFrameLen then .wait
      else match validateLink s.params (rxFront s Config.linkFrameLen) with
        | none => .bad
        | some _ => .ok (rxFront s Config.linkFrameLen)

/-- An accepted control frame: dropped from `rx`, published, then `ReadDownlink` (R140, R141,
D25). -/
def acceptControl (f : List Byte) (G : Nat) (s : State) : State :=
  goTo .readDownlink (publish f G (rxDrop (controlLen G) s))

/-- State `Syncing` (R140). -/
def stepSyncing (s : State) : State :=
  match tryControl s with
  | .wait => s
  | .bad => raise .syncLoss (rxDrop Config.syncDrop s)
  | .ok f G => acceptControl f G s

/-- State `ReadControl` (R141). -/
def stepReadControl (s : State) : State :=
  match tryControl s with
  | .wait => s
  | .bad => errorEntry .controlFrameError .syncing s
  | .ok f G => acceptControl f G s

/-- State `ReadDownlink` (R143). -/
def stepReadDownlink (s : State) : State :=
  match tryLink s with
  | .wait => s
  | .noHeader => errorEntry (.downlinkFrameError .shape) .syncing s
  | .bad => errorEntry (.downlinkFrameError .checksum) .syncing s
  | .ok f =>
      let t := rxDrop Config.linkFrameLen s
      if deviceOf f = t.params.nodeId then goTo .waitWriteUplink { t with tDl := readCyc t }
      else goTo .readUplink t

/-- `e`, the ticks since the downlink frame was accepted, modulo 2^32 (R144, D18). -/
def elapsed (s : State) : Nat := (readCyc s - s.tDl).toNat

/-- The building branch of `WaitWriteUplink` (R144, D19). -/
def buildAnswer (s : State) : State :=
  let item := (popped s).getD TelemetryItem.zero
  let t := afterPop s
  goTo .writeUplink { t with txbuf := buildUplink t.params t.params.nodeId item }

/-- State `WaitWriteUplink` (R144). -/
def stepWaitWriteUplink (s : State) : State :=
  if elapsed s < s.params.tMin then s
  else if elapsed s > s.params.tMax then errorEntry .uplinkWindowMissed .readControl s
  else buildAnswer s

/-- State `WriteUplink` (R145). -/
def stepWriteUplink (s : State) : State := goTo .readUplink (txWrite s.txbuf.toList s)

/-- State `ReadUplink` (R146). -/
def stepReadUplink (s : State) : State :=
  match tryLink s with
  | .wait => s
  | .noHeader => goTo .readControl s
  | .bad => errorEntry .uplinkFrameError .syncing s
  | .ok _ => goTo .readControl (rxDrop Config.linkFrameLen s)

/-- One step of the LSM: the rule of the current value of `state` (R138). -/
def lsmStep (s : State) : State :=
  match s.state with
  | .syncing => stepSyncing s
  | .readControl => stepReadControl s
  | .readDownlink => stepReadDownlink s
  | .waitWriteUplink => stepWaitWriteUplink s
  | .writeUplink => stepWriteUplink s
  | .readUplink => stepReadUplink s

/-! ### The state rows

Each row is its rule, whatever `state` holds; `step` runs a row only where `state` names it
(R138, log 13). -/

/-- `Syncing` (R140). -/
def execSyncing (s : State) : Host.Outcome State Fault Refusal := .next (stepSyncing s)

/-- `ReadControl` (R141). -/
def execReadControl (s : State) : Host.Outcome State Fault Refusal :=
  .next (stepReadControl s)

/-- `ReadDownlink` (R143). -/
def execReadDownlink (s : State) : Host.Outcome State Fault Refusal :=
  .next (stepReadDownlink s)

/-- `WaitWriteUplink` (R144). -/
def execWaitWriteUplink (s : State) : Host.Outcome State Fault Refusal :=
  .next (stepWaitWriteUplink s)

/-- `WriteUplink` (R145). -/
def execWriteUplink (s : State) : Host.Outcome State Fault Refusal :=
  .next (stepWriteUplink s)

/-- `ReadUplink` (R146). -/
def execReadUplink (s : State) : Host.Outcome State Fault Refusal :=
  .next (stepReadUplink s)

end Sys2Proof.Machine
end

