-- ==== Sys2Proof/Machine/Frames.lean ====
section
/-! DEFINITION. The meanings of the five frame rows: what the LSM does with the frame when it
stands complete at the front of `rx`. The current `state` gives the frame its position in the
cycle (30_encoding.md R68, R73), so the meaning is the LSM's step on it: validation by
40_codec.md R95 or R96, then publication (44_shared_block.md R180), turnaround (42_link_fsm.md
R143), read-back (R146), or the error the state names (R150). -/

namespace Sys2Proof.Machine

open Sys2Proof

/-- The LSM's step with the frame `f` at the front of `rx`; refused where it is not there
(log 12). -/
def receiveFrame (f : List Byte) (s : State) : Host.Outcome State Fault Refusal :=
  if f.isPrefixOf s.rx then .next (lsmStep s) else .refused .frameNotReceived

/-- `CTRL8` (30_encoding.md R61, 40_codec.md R95, 44_shared_block.md R180). -/
def execCtrl8 (g0 : Group) (status quality checksum : Byte) (s : State) :
    Host.Outcome State Fault Refusal :=
  receiveFrame (controlBytes (.one g0) status quality checksum) s

/-- `CTRL16` (30_encoding.md R61, 40_codec.md R95, 44_shared_block.md R180). -/
def execCtrl16 (g0 g1 : Group) (status quality checksum : Byte) (s : State) :
    Host.Outcome State Fault Refusal :=
  receiveFrame (controlBytes (.two g0 g1) status quality checksum) s

/-- `CTRL24` (30_encoding.md R61, 40_codec.md R95, 44_shared_block.md R180). -/
def execCtrl24 (g0 g1 g2 : Group) (status quality checksum : Byte) (s : State) :
    Host.Outcome State Fault Refusal :=
  receiveFrame (controlBytes (.three g0 g1 g2) status quality checksum) s

/-- `DL` (30_encoding.md R63, 40_codec.md R96, 42_link_fsm.md R143). -/
def execDl (device primitive : Byte) (appId : Word16) (data : Word) (checksum : Byte)
    (s : State) : Host.Outcome State Fault Refusal :=
  receiveFrame (linkBytes device primitive appId data checksum) s

/-- `UL` (30_encoding.md R63, 40_codec.md R96, 42_link_fsm.md R146). -/
def execUl (device primitive : Byte) (appId : Word16) (data : Word) (checksum : Byte)
    (s : State) : Host.Outcome State Fault Refusal :=
  receiveFrame (linkBytes device primitive appId data checksum) s

end Sys2Proof.Machine
end

