-- ==== Sys2Proof/Machine/Reset.lean ====
section
/-! DEFINITION. `RESET` (70_reset_and_hazards.md R250, R252; 10_state.md R34). -/

namespace Sys2Proof.Machine

open Sys2Proof

/-- Free bytes, numbered from `n` (U3, log 4). -/
def freeBytes (n : Nat) : Vector Byte 10 :=
  Vector.ofFn fun i => (Config.freeWord (n + i.val)).setWidth 8

/-- Free items, numbered from `n` (U3, log 4). -/
def freeItems (n : Nat) : Vector TelemetryItem 8 :=
  Vector.ofFn fun i =>
    { appId := (Config.freeWord (n + 2 * i.val)).setWidth 16
      data := Config.freeWord (n + 2 * i.val + 1) }

/-- How many free values one `RESET` takes. -/
def freePerReset : Nat := 28

/-- The block zeroed, and only its 104 bytes (R250, R252 (b)). -/
def clearBlock (s : State) : List Host.Cell := Memory.erase (inBlock s) s.mem

/-- The state `RESET` leaves: every register at the value of R34; `t_dl`, `cyc`, `txbuf` and
`slots`, which R250 leaves unspecified, free (log 4). The parameters, and the agents' moves
still to come, are no state of the block and stay (log 6). -/
def resetState (s : State) : State :=
  { State.reset with
    mem := clearBlock s
    tDl := Config.freeWord s.freeCtr
    cyc := Config.freeWord (s.freeCtr + 1)
    txbuf := freeBytes (s.freeCtr + 2)
    slots := freeItems (s.freeCtr + 12)
    params := s.params
    agenda := s.agenda
    plans := s.plans
    freeCtr := s.freeCtr + freePerReset }

/-- `RESET` (R250). When it may fall: log 25. -/
def execReset (s : State) : Host.Outcome State Fault Refusal := .next (resetState s)

end Sys2Proof.Machine
end

