-- ==== Sys2Proof/Machine/Dispatch.lean ====
section
/-! DEFINITION. The dispatch: one arm per constructor of `Instr`, each a call of its meaning. -/

namespace Sys2Proof.Machine

open Sys2Proof

def exec (i : Instr) (s : State) : Host.Outcome State Fault Refusal :=
  match i with
  -- frame rows (30_encoding.md R75 (a))
  | .ctrl8 g0 status quality checksum => Sys2Proof.Machine.execCtrl8 g0 status quality checksum s
  | .ctrl16 g0 g1 status quality checksum => Sys2Proof.Machine.execCtrl16 g0 g1 status quality checksum s
  | .ctrl24 g0 g1 g2 status quality checksum => Sys2Proof.Machine.execCtrl24 g0 g1 g2 status quality checksum s
  | .dl device primitive appId data checksum => Sys2Proof.Machine.execDl device primitive appId data checksum s
  | .ul device primitive appId data checksum => Sys2Proof.Machine.execUl device primitive appId data checksum s
  -- state rows (30_encoding.md R75 (b))
  | .syncing => Sys2Proof.Machine.execSyncing s
  | .readControl => Sys2Proof.Machine.execReadControl s
  | .readDownlink => Sys2Proof.Machine.execReadDownlink s
  | .waitWriteUplink => Sys2Proof.Machine.execWaitWriteUplink s
  | .writeUplink => Sys2Proof.Machine.execWriteUplink s
  | .readUplink => Sys2Proof.Machine.execReadUplink s
  -- operation rows (30_encoding.md R75 (c))
  | .fold a => Sys2Proof.Machine.execFold a s
  | .csum b => Sys2Proof.Machine.execCsum b s
  | .check b0 b1 rest => Sys2Proof.Machine.execCheck b0 b1 rest s
  | .validateControl b0 b1 rest => Sys2Proof.Machine.execValidateControl b0 b1 rest s
  | .validateLink f => Sys2Proof.Machine.execValidateLink f s
  | .buildUplink dev item => Sys2Proof.Machine.execBuildUplink dev item s
  | .unpack11 b k => Sys2Proof.Machine.execUnpack11 b k s
  | .pack11 r0 r1 r2 r3 r4 r5 r6 r7 => Sys2Proof.Machine.execPack11 r0 r1 r2 r3 r4 r5 r6 r7 s
  | .raw2pulse raw => Sys2Proof.Machine.execRaw2pulse raw s
  | .pulse2raw pulse => Sys2Proof.Machine.execPulse2raw pulse s
  | .decodeChannels f => Sys2Proof.Machine.execDecodeChannels f s
  | .hostPush item => Sys2Proof.Machine.execHostPush item s
  | .pop => Sys2Proof.Machine.execPop s
  | .publish f => Sys2Proof.Machine.execPublish f s
  | .hostSnapshot => Sys2Proof.Machine.execHostSnapshot s
  | .reset => Sys2Proof.Machine.execReset s

end Sys2Proof.Machine
end

