-- ==== Sys2Proof/Machine/Sched.lean ====
section
/-! DEFINITION. Whose move it is and what the LSM fetches (00_scope.md R8; log 6, log 11). -/

namespace Sys2Proof.Machine

open Sys2Proof

/-- The state row that `state` names (42_link_fsm.md R138). -/
def stateRow : LinkState → Instr
  | .syncing => .syncing
  | .readControl => .readControl
  | .readDownlink => .readDownlink
  | .waitWriteUplink => .waitWriteUplink
  | .writeUplink => .writeUplink
  | .readUplink => .readUplink

/-- What kind of frame the current `state` reads; none in the two states that do not look at
`rx` (30_encoding.md R73, 20_memory.md R41). -/
def framePosition : LinkState → Option Place
  | .syncing => some .control
  | .readControl => some .control
  | .readDownlink => some .downlink
  | .waitWriteUplink => none
  | .writeUplink => none
  | .readUplink => some .uplink

/-- The LSM's next instruction: the complete frame of the expected kind at the front of `rx`,
else the state row. -/
def fetch (s : State) : Instr :=
  match framePosition s.state with
  | none => stateRow s.state
  | some p => (decodedInstr (decode p s.rx)).getD (stateRow s.state)

/-- One step of the LSM: the fetched instruction is executed (42_link_fsm.md R138). -/
def lsmMove (s : State) : Host.Outcome State Fault Refusal := exec (fetch s) s

/-- LINE's echo (42_link_fsm.md R135 (b)). -/
def echoMove (s : State) : Host.Outcome State Fault Refusal :=
  if s.params.lineEcho then
    match s.tx[s.echoed]? with
    | some b => .next { s with rx := s.rx ++ [b], echoed := s.echoed + 1 }
    | none => .refused .noEcho
  else .refused .noEcho

/-- The operation rows, which a caller may execute (30_encoding.md R75 (c); log 19). -/
def isOperation (i : Instr) : Bool := decide (placeOf i = .opNumber)

/-- One move of an agent (00_scope.md R8), or a call. The spec does not say when a `RESET` may
fall in a running system (91_not_in_source.md N20): between any two moves, never inside one:
DESIGN CHOICE, log 25. -/
def runMove (m : Move) (s : State) : Host.Outcome State Fault Refusal :=
  match m with
  | .lsm => lsmMove s
  | .line b => .next { s with rx := s.rx ++ [b] }
  | .echo => echoMove s
  | .tick n => if n = 0 then .refused .noTick else .next { s with cyc := s.cyc + BitVec.ofNat 32 n }
  | .host m => .next (hostMove m s)
  | .call i => if isOperation i then exec i s else .refused .notAnOperation

/-- One step of the machine: the next move of the agenda; with none left, the LSM's (log 6).
A machine that is not ready or not configured by R6 does not start (U6, U21). -/
def stepMachine (s : State) : Host.Outcome State Fault Refusal :=
  if !s.params.linkReady then .refused .initUnavailable
  else if !paramsOk s.params then .refused .badConfiguration
  else match s.agenda with
    | [] => lsmMove s
    | m :: ms => runMove m { s with agenda := ms }

/-- The state a state row's rule runs in. -/
def rowState : Instr → Option LinkState
  | .syncing => some .syncing
  | .readControl => some .readControl
  | .readDownlink => some .readDownlink
  | .waitWriteUplink => some .waitWriteUplink
  | .writeUplink => some .writeUplink
  | .readUplink => some .readUplink
  | .ctrl8 .. => none
  | .ctrl16 .. => none
  | .ctrl24 .. => none
  | .dl .. => none
  | .ul .. => none
  | .fold _ => none
  | .csum _ => none
  | .check .. => none
  | .validateControl .. => none
  | .validateLink _ => none
  | .buildUplink .. => none
  | .unpack11 .. => none
  | .pack11 .. => none
  | .raw2pulse _ => none
  | .pulse2raw _ => none
  | .decodeChannels _ => none
  | .hostPush _ => none
  | .pop => none
  | .publish _ => none
  | .hostSnapshot => none
  | .reset => none

/-- The state that reads a frame which begins with these bytes, from the table alone (log 10). -/
def frameState (bs : List Byte) : LinkState :=
  if bs.head? = some Config.linkSize then .readDownlink else .syncing

/-- Place an instruction so that the next step executes it: a frame at the front of `rx` in a
state that reads it, a state row by its `state`, an operation as the next call (log 11). -/
def placeWord (s : State) (nbits w : Nat) : State :=
  if nbits > 8 then
    { s with state := frameState (tableBytes w), rx := tableBytes w ++ s.rx
             agenda := .lsm :: s.agenda }
  else match decodeTableWord nbits w with
    | none => s
    | some i =>
        match rowState i with
        | some st => { s with state := st, agenda := .lsm :: s.agenda }
        | none => { s with agenda := .call i :: s.agenda }

end Sys2Proof.Machine
end

