-- ==== Sys2Proof/Safety.lean ====
section
/-! DEFINITION. The terms claims use: what a control frame's values are, when the block holds
them, which bytes belong to no accessed field, and the invariants of the machine. -/

namespace Sys2Proof

open Sys2Proof.Machine

/-! ### Frames -/

/-- The first two bytes select `G` groups (40_codec.md R95, `CONTROL_SHAPE`). -/
def ShapeOf (b0 b1 : Byte) (G : Nat) : Prop :=
  b1 = 0xFF ∧ ((b0 = 0x0D ∧ G = 1) ∨ (b0 = 0x18 ∧ G = 2) ∨ (b0 = 0x23 ∧ G = 3))

/-- The frame row of these groups: `CTRL8`, `CTRL16` or `CTRL24` (30_encoding.md R60). -/
def controlRow (gs : Groups) (status quality checksum : Byte) : Instr :=
  match gs with
  | .one g0 => .ctrl8 g0 status quality checksum
  | .two g0 g1 => .ctrl16 g0 g1 status quality checksum
  | .three g0 g1 g2 => .ctrl24 g0 g1 g2 status quality checksum

/-- What the loop of `FOLD` comes to (40_codec.md R91, corner cases). -/
def foldValue (n : Nat) : Nat := if n = 0 then 0 else (n - 1) % 255 + 1

/-- Raw channel `c` of these groups: bits `11*(c mod 8)` up of group `c div 8` (41_channels.md
R110, R112). -/
def rawOf (gs : Groups) (c : Nat) : Nat :=
  (gs.list.getD (c / 8) 0).toNat / 2 ^ (11 * (c % 8)) % 2048

/-- The pulse of a raw value: the clamp, then the scaling (41_channels.md R113). -/
def pulseOf (raw : Nat) : Nat := 500 + (max 8 (min 1976 raw) - 8) * 2000 / 1968

/-- The value a channel slot receives from these groups (44_shared_block.md R183). -/
def slotValue (gs : Groups) (c : Nat) : Nat :=
  if c < 8 * gs.count then pulseOf (rawOf gs c) else 0

/-- The block's data fields hold this frame's values (44_shared_block.md R182, R183). -/
def BlockHolds (t : State) (gs : Groups) (status quality : Byte) : Prop :=
  loadField t .flags = status.toNat ∧
  loadField t .quality = quality.toNat ∧
  loadField t .channelCount = 8 * gs.count ∧
  ∀ i : Fin 24, loadField t (.channel i) = slotValue gs i.val

/-- A byte that no field access covers: outside the 104 bytes, or `reserved` (10_state.md R15,
R20; 20_memory.md R46). -/
def Untouched (s : State) (a : Nat) : Prop :=
  a < s.params.scbBase ∨ s.params.scbBase + 104 ≤ a ∨ a = s.params.scbBase + 7

/-- How many of the LSM's stores these events of a publish are; of its 28, 27 are field stores
(44_shared_block.md R180, R185). -/
def storesIn : List PublishMove → Nat
  | [] => 0
  | .store _ :: ps => storesIn ps + 1
  | .host _ :: ps => storesIn ps

/-- HOST takes no step inside the next publish. -/
def Undisturbed (s : State) : Prop :=
  ∀ m ∈ s.plans.headD [], ∃ k, m = PublishMove.store k

/-- What HOST and the outbox hold, the event log and the returned value are as they were. -/
def HostSideKept (s t : State) : Prop :=
  t.lastSeen = s.lastSeen ∧ t.snap = s.snap ∧ t.copy = s.copy ∧ t.ret = s.ret ∧
  t.events = s.events ∧ t.slots = s.slots ∧ t.head = s.head ∧ t.tail = s.tail

/-- What an accepted control frame leaves, `rest` the bytes after it in `rx` (42_link_fsm.md
R140, R141; 44_shared_block.md R180): the frame's values in the block under the next
generation, the next state, and everything else as it was. -/
structure Accepted (s t : State) (gs : Groups) (status quality : Byte) (rest : List Byte) :
    Prop where
  state : t.state = .readDownlink
  rx : t.rx = rest
  block : BlockHolds t gs status quality
  generation : loadField t .generation = (loadField s .generation + 1) % 2 ^ 32
  untouched : ∀ a, Untouched s a → Memory.read t.mem a = Memory.read s.mem a
  tDl : t.tDl = s.tDl
  txbuf : t.txbuf = s.txbuf
  tx : t.tx = s.tx
  echoed : t.echoed = s.echoed
  cyc : t.cyc = s.cyc
  params : t.params = s.params
  agenda : t.agenda = s.agenda
  plans : t.plans = s.plans.tail
  freeCtr : t.freeCtr = s.freeCtr
  hostSide : Undisturbed s → HostSideKept s t

/-! ### The snapshot -/

/-- The copy holds what a load of the field gives (44_shared_block.md R186). -/
def CopyHolds (s : State) (c : Snapshot) (f : Field) : Prop :=
  match f with
  | .generation => c.generation.toNat = loadField s .generation
  | .flags => c.flags.toNat = loadField s .flags
  | .quality => c.quality.toNat = loadField s .quality
  | .channelCount => c.channelCount.toNat = loadField s .channelCount
  | .channel i => c.channels[i].toNat = loadField s (.channel i)

/-- Two copies hold the same in a field. -/
def CopyAgrees (c d : Snapshot) (f : Field) : Prop :=
  match f with
  | .generation => d.generation = c.generation
  | .flags => d.flags = c.flags
  | .quality => d.quality = c.quality
  | .channelCount => d.channelCount = c.channelCount
  | .channel i => d.channels[i] = c.channels[i]

/-- A plan in which one snapshot attempt overlaps the publish: HOST loads the generation and the
first `n` data fields, the LSM makes its 27 field stores, HOST loads the other fields and the
generation again, and the generation store comes last (44_shared_block.md R188). Stores and loads
are in listing order. -/
def overlapPlan (n : Nat) : List PublishMove :=
  List.replicate (n + 1) (.host (.load 0)) ++ List.replicate 27 (.store 0) ++
    List.replicate (28 - n) (.host (.load 0)) ++ [.store 0]

/-! ### Invariants -/

/-- The canonical form of shared memory. -/
def MemoryCanonical (s : State) : Prop := Memory.wf s.mem = true

/-- UNSET or within [500, 2500] (10_state.md R21). -/
def UnsetOrPulse (v : Nat) : Prop := v = 0 ∨ (500 ≤ v ∧ v ≤ 2500)

/-- The block's legal contents and every copy of its channels (10_state.md R19, R20, R21). Of a
channel that the copy in progress has not loaded yet the spec says nothing: there `copy` rests on
the model's own 0 (log 23). -/
structure BlockLegal (s : State) : Prop where
  channels : ∀ i : Fin 24, UnsetOrPulse (loadField s (.channel i))
  count : loadField s .channelCount ∈ [0, 8, 16, 24]
  reserved : Memory.read s.mem (s.params.scbBase + 7) = 0
  snap : ∀ c, s.snap = some c → ∀ i : Fin 24, UnsetOrPulse c.channels[i].toNat
  copy : ∀ c, s.copy = some c → ∀ i : Fin 24, UnsetOrPulse c.partialCopy.channels[i].toNat

/-- A frame this node may send: 10 bytes, valid, its own id, primitive 0x10 (42_link_fsm.md
R151 (c)). -/
def UplinkFrame (p : Params) (f : List Byte) : Prop :=
  f.length = 10 ∧ validateLink p f = some p.nodeId ∧ primitiveOf f = 0x10

/-- The transmit side: `tx` is whole uplink frames of this node, the frame about to be sent is
one (42_link_fsm.md R151 (c)), the outbox holds at most 8 items (43_outbox.md R173 (c)), and
LINE has echoed only what was sent (R135). -/
structure UplinkLegal (s : State) : Prop where
  sent : ∃ frames : List (List Byte), s.tx = frames.flatten ∧
    ∀ f ∈ frames, UplinkFrame s.params f
  built : s.state = .writeUplink → UplinkFrame s.params s.txbuf.toList
  outbox : outboxCount s ≤ 8
  echoed : s.echoed ≤ s.tx.length

end Sys2Proof
end

