-- ==== Sys2Proof/Certificates/Slice0/Obligations.lean ====
section
/-! DEFINITION. The statements for the provers. They state and never prove. What an operation
returns to its caller stands in `ret`, the model's own register for it (log 5); a state row is
stated for every value of `state` (log 13). -/

open Sys2Proof Sys2Proof.Machine

/-! ### Encoding -/

/-- For every well-formed instruction, decoding its encoding gives it back; a frame or state
code is read off the front of any bytes that follow (30_encoding.md R61, R63, R75). The operand
bytes of operation rows are the model's own: log 9. -/
def Obligations.DecodeEncodeRoundTrip : Prop :=
  ∀ i : Instr, WellFormed i = true →
    decode (placeOf i) (encode i) = .ok (i, []) ∧
    (placeOf i ≠ .opNumber →
      ∀ rest, decode (placeOf i) (encode i ++ rest) = .ok (i, rest))

/-- What the decoder reads as a frame or a state code is exactly the bytes the encoder gives
for it, and it reads it only in its own place (30_encoding.md R61, R63, R73). -/
def Obligations.DecodedFramesSpellBack : Prop :=
  ∀ (p : Place) (bs rest : List Byte) (i : Instr), p ≠ .opNumber →
    decode p bs = .ok (i, rest) → placeOf i = p ∧ bs = encode i ++ rest

/-- Words written out from the spec's tables and vectors decode to what they stand for
(30_encoding.md R61, R63, R68, R76; 95_test_vectors.md V20, V25, V34, V37). -/
def Obligations.SpecWordsDecode : Prop :=
  decode .control [0x0D, 0xFF, 0xE0, 0x03, 0x1F, 0xF8, 0xC0, 0x07, 0x3E, 0xF0, 0x81, 0x0F,
      0x7C, 0x00, 0x64, 0x9B] =
    .ok (.ctrl8 0x7C0F81F03E07C0F81F03E0 0x00 0x64 0x9B, []) ∧
  decode .downlink [0x08, 0x1B, 0x30, 0x34, 0x12, 0xEF, 0xBE, 0xAD, 0xDE, 0x33] =
    .ok (.dl 0x1B 0x30 0x1234 0xDEADBEEF 0x33, []) ∧
  decode .uplink [0x08, 0x02, 0x10, 0x00, 0x03, 0x20, 0x02, 0x48, 0x83, 0xFC] =
    .ok (.ul 0x02 0x10 0x0300 0x83480220 0xFC, []) ∧
  decode .stateCode [3] = .ok (.waitWriteUplink, []) ∧
  decode .opNumber [12] = .ok (.pop, []) ∧
  decode .control [0x0D, 0xFE] = .error .badHeader ∧
  decode .control [0x0E, 0xFF] = .error .badSize ∧
  decode .downlink [0x0D] = .error .notLinkSize ∧
  decode .stateCode [6] = .error .unreachableState

/-! ### The step -/

/-- A step runs the decoded instruction (42_link_fsm.md R138; log 6, log 11): on the LSM's move
the complete frame of the kind its state expects, else the row of its state; on a call the
operation row. Around `exec` a step only takes the move off the agenda. -/
def Obligations.StepRunsDecodedInstruction : Prop :=
  ∀ s : State, s.params.linkReady = true → paramsOk s.params = true →
    (∀ p i rest ms, framePosition s.state = some p → decode p s.rx = .ok (i, rest) →
      s.agenda = .lsm :: ms → step s = exec i { s with agenda := ms }) ∧
    (∀ p i rest, framePosition s.state = some p → decode p s.rx = .ok (i, rest) →
      s.agenda = [] → step s = exec i s) ∧
    (∀ p e ms, framePosition s.state = some p → decode p s.rx = .error e →
      s.agenda = .lsm :: ms → step s = exec (stateRow s.state) { s with agenda := ms }) ∧
    (∀ ms, framePosition s.state = none → s.agenda = .lsm :: ms →
      step s = exec (stateRow s.state) { s with agenda := ms }) ∧
    (∀ i ms, placeOf i = .opNumber → s.agenda = .call i :: ms →
      step s = exec i { s with agenda := ms })

/-- One LSM step executes the rule of the current value of `state`, whatever frame stands at
the front of `rx` (42_link_fsm.md R138). -/
def Obligations.LsmStepRunsRuleOfState : Prop :=
  ∀ s : State, s.params.linkReady = true → paramsOk s.params = true →
    (∀ ms, s.agenda = .lsm :: ms → step s = exec (stateRow s.state) { s with agenda := ms }) ∧
    (s.agenda = [] → step s = exec (stateRow s.state) s)

/-- The moves of LINE, CLOCK and HOST's push (42_link_fsm.md R135, R136; 43_outbox.md R171). -/
def Obligations.EnvironmentMoves : Prop :=
  ∀ (s : State) (ms : List Move), s.params.linkReady = true → paramsOk s.params = true →
    (∀ b, s.agenda = .line b :: ms →
      step s = .next { s with agenda := ms, rx := s.rx ++ [b] }) ∧
    (∀ b, s.agenda = .echo :: ms → s.params.lineEcho = true → s.tx[s.echoed]? = some b →
      step s = .next { s with agenda := ms, rx := s.rx ++ [b], echoed := s.echoed + 1 }) ∧
    (s.agenda = .echo :: ms → (s.params.lineEcho = false ∨ s.tx.length ≤ s.echoed) →
      step s = .refused .noEcho) ∧
    (∀ n, s.agenda = .tick n :: ms → 0 < n →
      step s = .next { s with agenda := ms, cyc := s.cyc + BitVec.ofNat 32 n }) ∧
    (s.agenda = .tick 0 :: ms → step s = .refused .noTick) ∧
    (∀ item, s.agenda = .host (.push item) :: ms →
      step s = exec (.hostPush item) { s with agenda := ms })

/-- A machine that is not ready, or not configured by 00_scope.md R6, takes no step
(93_implementation_defined.md U6, U21); neither is a call of a row that is no operation one
(log 19). -/
def Obligations.StepRefusesWhatTheSpecRefuses : Prop :=
  ∀ s : State,
    (s.params.linkReady = false → step s = .refused .initUnavailable) ∧
    (s.params.linkReady = true →
      (s.params.scbBase % 4 ≠ 0 ∨ s.params.tMax < s.params.tMin ∨ 2 ^ 31 ≤ s.params.tMax) →
      step s = .refused .badConfiguration) ∧
    (∀ i ms, s.params.linkReady = true → paramsOk s.params = true →
      s.agenda = .call i :: ms → placeOf i ≠ .opNumber → step s = .refused .notAnOperation)

/-! ### The codec -/

/-- `FOLD` (40_codec.md R91): 0 for 0, else `((s - 1) mod 255) + 1`; nothing else changes. -/
def Obligations.FoldResult : Prop :=
  ∀ (a : Word16) (s : State), ∃ r : Byte, r.toNat = foldValue a.toNat ∧
    exec (.fold a) s = .next { s with ret := .byte r }

/-- `CSUM` (40_codec.md R92): 0xFF less the fold of the 16-bit sum. -/
def Obligations.CsumResult : Prop :=
  ∀ (b : List Byte) (s : State), ∃ c : Byte,
    c.toNat = 255 - foldValue ((b.map BitVec.toNat).sum % 65536) ∧
    exec (.csum b) s = .next { s with ret := .byte c }

/-- `CHECK` (40_codec.md R94, R93): the last byte equals the checksum of the covered bytes. -/
def Obligations.CheckIsByteEquality : Prop :=
  ∀ (b0 b1 last : Byte) (rest body : List Byte) (s : State),
    b0 :: b1 :: rest = body ++ [last] →
    exec (.check b0 b1 rest) s =
      .next { s with ret := .bool (decide (last =
        if s.params.csumCoversSize then csum body else csum (body.drop 1))) }

/-- `VALIDATE_CONTROL` (40_codec.md R95): Ok(G) exactly for the right header, size, length and
checksum. -/
def Obligations.ValidateControlResult : Prop :=
  ∀ (b0 b1 : Byte) (rest : List Byte) (s : State), ∃ r : Option Nat,
    exec (.validateControl b0 b1 rest) s = .next { s with ret := .control r } ∧
    ∀ G, r = some G ↔ ShapeOf b0 b1 G ∧ (b0 :: b1 :: rest).length = 11 * G + 5 ∧
      check s.params (b0 :: b1 :: rest) = true

/-- `VALIDATE_LINK` (40_codec.md R96): Ok(device_id) exactly for ten bytes, the size byte, the
checksum and, only with `CHECK_PRIM_ON_RX`, the primitive. -/
def Obligations.ValidateLinkResult : Prop :=
  ∀ (f : List Byte) (s : State), ∃ r : Option Byte,
    exec (.validateLink f) s = .next { s with ret := .link r } ∧
    ∀ d, r = some d ↔ f.length = 10 ∧ f[0]? = some 0x08 ∧ check s.params f = true ∧
      (s.params.checkPrimOnRx = true → f[2]? = some 0x10) ∧ f[1]? = some d

/-- `BUILD_UPLINK` (40_codec.md R98): the ten bytes. -/
def Obligations.BuildUplinkBytes : Prop :=
  ∀ (dev : Byte) (item : TelemetryItem) (s : State) (body : List Byte),
    body = [dev, 0x10, item.appId.extractLsb' 0 8, item.appId.extractLsb' 8 8,
      item.data.extractLsb' 0 8, item.data.extractLsb' 8 8, item.data.extractLsb' 16 8,
      item.data.extractLsb' 24 8] →
    exec (.buildUplink dev item) s = .next { s with ret := .bytes ([0x08] ++ body ++
      [if s.params.csumCoversSize then csum (0x08 :: body) else csum body]) }

/-- What `BUILD_UPLINK` builds validates with its device id, in every configuration
(40_codec.md R98, corner cases). -/
def Obligations.BuiltUplinkValidates : Prop :=
  ∀ (p : Params) (dev : Byte) (item : TelemetryItem),
    validateLink p (buildUplink p dev item).toList = some dev

/-- The frame of a control body validates with its group count, in every configuration: the
operand of `PUBLISH` and `DECODE_CHANNELS` is a validated frame (40_codec.md R95; log 9). -/
def Obligations.ControlFrameValidates : Prop :=
  ∀ (p : Params) (f : ControlBody),
    validateControl p (controlFrame p f) = some f.groups.count

/-- Replacing one covered byte changes the checksum, unless 0x00 and 0xFF are exchanged beside
another byte that is not zero (40_codec.md R99 (b), (c)). -/
def Obligations.ChecksumCatchesOneByte : Prop :=
  ∀ (pre post : List Byte) (x y : Byte), (pre ++ x :: post).length ≤ 257 → x ≠ y →
    (csum (pre ++ x :: post) = csum (pre ++ y :: post) ↔
      ((x = 0x00 ∧ y = 0xFF) ∨ (x = 0xFF ∧ y = 0x00)) ∧ ∃ b ∈ pre ++ post, b ≠ 0)

/-- Transpositions of covered bytes are never detected (40_codec.md R99 (f)). -/
def Obligations.ChecksumIgnoresOrder : Prop :=
  ∀ b c : List Byte, b.Perm c → csum b = csum c

/-! ### Channels -/

/-- `UNPACK11` (41_channels.md R110): `(W >> (11*i)) & 0x7FF` for the 88-bit integer `W` of the
eleven bytes, the first lowest. -/
def Obligations.Unpack11Result : Prop :=
  ∀ (b0 b1 b2 b3 b4 b5 b6 b7 b8 b9 b10 : Byte) (i : Fin 8) (s : State) (W : Nat),
    W = b0.toNat + b1.toNat * 2 ^ 8 + b2.toNat * 2 ^ 16 + b3.toNat * 2 ^ 24 +
      b4.toNat * 2 ^ 32 + b5.toNat * 2 ^ 40 + b6.toNat * 2 ^ 48 + b7.toNat * 2 ^ 56 +
      b8.toNat * 2 ^ 64 + b9.toNat * 2 ^ 72 + b10.toNat * 2 ^ 80 →
    exec (.unpack11 (le88 b0 b1 b2 b3 b4 b5 b6 b7 b8 b9 b10) i) s =
      .next { s with ret := .raw ((W >>> (11 * i.val)) &&& 0x7FF) }

/-- `PACK11` (41_channels.md R111): the eleven bytes of the sum of the values, each reduced to
11 bits and placed 11 bits apart. -/
def Obligations.Pack11Result : Prop :=
  ∀ (r0 r1 r2 r3 r4 r5 r6 r7 : Nat) (s : State), ∃ bs : List Byte,
    exec (.pack11 r0 r1 r2 r3 r4 r5 r6 r7) s = .next { s with ret := .bytes bs } ∧
    bs.length = 11 ∧
    ∀ j < 11, (bs.getD j 0).toNat =
      (r0 % 2048 + r1 % 2048 * 2 ^ 11 + r2 % 2048 * 2 ^ 22 + r3 % 2048 * 2 ^ 33 +
        r4 % 2048 * 2 ^ 44 + r5 % 2048 * 2 ^ 55 + r6 % 2048 * 2 ^ 66 +
        r7 % 2048 * 2 ^ 77) / 256 ^ j % 256

/-- Packing loses nothing in either direction (41_channels.md R111, corner cases). -/
def Obligations.PackUnpackInverse : Prop :=
  (∀ (r0 r1 r2 r3 r4 r5 r6 r7 : Nat) (i : Fin 8),
    (unpack11 (pack11 r0 r1 r2 r3 r4 r5 r6 r7) i.val).toNat =
      [r0, r1, r2, r3, r4, r5, r6, r7].getD i.val 0 % 2048) ∧
  ∀ b : Group, pack11 (unpack11 b 0).toNat (unpack11 b 1).toNat (unpack11 b 2).toNat
    (unpack11 b 3).toNat (unpack11 b 4).toNat (unpack11 b 5).toNat (unpack11 b 6).toNat
    (unpack11 b 7).toNat = b

/-- `RAW2PULSE` and `PULSE2RAW` (41_channels.md R113, R114): clamp, then scale. -/
def Obligations.ScalingResults : Prop :=
  (∀ (raw : BitVec 11) (s : State), exec (.raw2pulse raw) s = .next { s with
    ret := .pulse (500 + ((max 8 (min 1976 raw.toNat) - 8) * 2000) / 1968) }) ∧
  ∀ (pulse : Nat) (s : State), exec (.pulse2raw pulse) s = .next { s with
    ret := .raw (8 + ((max 500 (min 2500 pulse) - 500) * 1968) / 2000) }

/-- The scaling: bounds, the two ends, monotone, strictly so on the valid range, steps of 1 or
2, and the round trip within one unit (41_channels.md R113, R114, corner cases). -/
def Obligations.ScalingProperties : Prop :=
  (∀ raw, 500 ≤ raw2pulse raw ∧ raw2pulse raw ≤ 2500) ∧
  (∀ raw, raw ≤ 8 → raw2pulse raw = 500) ∧
  (∀ raw, 1976 ≤ raw → raw2pulse raw = 2500) ∧
  (∀ a b, a ≤ b → raw2pulse a ≤ raw2pulse b) ∧
  (∀ a b, 8 ≤ a → a < b → b ≤ 1976 → raw2pulse a < raw2pulse b) ∧
  (∀ a, 8 ≤ a → a < 1976 →
    raw2pulse (a + 1) = raw2pulse a + 1 ∨ raw2pulse (a + 1) = raw2pulse a + 2) ∧
  ∀ u, 8 ≤ u → u ≤ 1976 →
    pulse2raw (raw2pulse u) = u ∨ pulse2raw (raw2pulse u) + 1 = u

/-- `DECODE_CHANNELS` (41_channels.md R115): 24 values, the frame's pulses then UNSET. -/
def Obligations.DecodeChannelsResult : Prop :=
  ∀ (f : ControlBody) (s : State), ∃ cs : List Nat,
    exec (.decodeChannels f) s = .next { s with ret := .channels cs } ∧
    cs.length = 24 ∧ ∀ c < 24, cs.getD c 0 = slotValue f.groups c

/-- `ENCODE_CHANNELS` (41_channels.md R116): the frame validates with its group count and carries
status and quality, each channel decodes to its pulse scaled forth and back; from 500 to 2500
that is the pulse at 500 + 125*j alone, 2 less at 16 pulses and 1 less at the others. For a list
shorter than the channels it rests on the model's choice that a missing pulse counts as 0 (log
22). -/
def Obligations.EncodedChannelsDecode : Prop :=
  (∀ (p : Params) (pulses : List Nat) (G : Nat) (st q : Byte), 1 ≤ G → G ≤ 3 →
    validateControl p (encodeChannels p pulses G st q) = some G ∧
    statusOf (encodeChannels p pulses G st q) G = st ∧
    qualityOf (encodeChannels p pulses G st q) G = q ∧
    ∀ c < 8 * G, (decodeChannels (encodeChannels p pulses G st q) G).getD c 0 =
      raw2pulse (pulse2raw (pulses.getD c 0))) ∧
  (∀ u, 500 ≤ u → u ≤ 2500 → (raw2pulse (pulse2raw u) = u ↔ (u - 500) % 125 = 0) ∧
    u - 2 ≤ raw2pulse (pulse2raw u) ∧ raw2pulse (pulse2raw u) ≤ u) ∧
  ((List.range 2001).filter fun k =>
    decide (raw2pulse (pulse2raw (500 + k)) + 2 = 500 + k)).length = 16

/-! ### The outbox -/

/-- `HOST_PUSH` (43_outbox.md R171): the next state, full and not full. -/
def Obligations.HostPushResult : Prop :=
  ∀ (item : TelemetryItem) (s : State),
    (s.head - s.tail = 8 → exec (.hostPush item) s = .next { s with
      tail := s.tail + 1, events := s.events ++ [.outboxOverflow],
      slots := s.slots.set (slotOf s.head) item, head := s.head + 1 }) ∧
    (s.head - s.tail ≠ 8 → exec (.hostPush item) s = .next { s with
      slots := s.slots.set (slotOf s.head) item, head := s.head + 1 })

/-- `POP` (43_outbox.md R172): the next state, empty and not empty. -/
def Obligations.PopResult : Prop :=
  ∀ s : State,
    (s.head = s.tail → exec .pop s = .next { s with ret := .item none }) ∧
    (s.head ≠ s.tail → exec .pop s = .next { s with
      tail := s.tail + 1, ret := .item (some s.slots[slotOf s.tail]) })

/-- The outbox is a first-in first-out queue of at most 8 items that drops its oldest item on
overflow (43_outbox.md R170). -/
def Obligations.OutboxIsDropOldestQueue : Prop :=
  ∀ s : State, outboxCount s ≤ 8 →
    (∀ item, ∃ t, exec (.hostPush item) s = .next t ∧ outboxCount t ≤ 8 ∧
      outboxItems t =
        (if outboxCount s = 8 then (outboxItems s).tail else outboxItems s) ++ [item]) ∧
    ∃ t, exec .pop s = .next t ∧ outboxCount t ≤ 8 ∧
      t.ret = .item (outboxItems s).head? ∧ outboxItems t = (outboxItems s).tail

/-- However many items are pushed, the last eight of all are held, in order (43_outbox.md R173
(a), (b)): pushing items 1 to 9 into an empty ring leaves items 2 to 9. -/
def Obligations.OutboxKeepsTheLastEight : Prop :=
  ∀ (items : List TelemetryItem) (s : State), outboxCount s ≤ 8 →
    outboxItems (items.foldl (fun t item => pushItem item t) s) =
      (outboxItems s ++ items).drop ((outboxItems s ++ items).length - 8)

/-! ### The shared channel block -/

/-- `PUBLISH` (44_shared_block.md R180, R182, R183, R184), under any plan: the block holds the
frame's values, the generation is one higher modulo 2^32, and no other byte of memory, the
`reserved` one among them, has changed. -/
def Obligations.PublishResult : Prop :=
  ∀ (f : ControlBody) (s : State), ∃ t, exec (.publish f) s = .next t ∧
    BlockHolds t f.groups f.status f.quality ∧
    loadField t .generation = (loadField s .generation + 1) % 2 ^ 32 ∧
    ∀ a, Untouched s a → Memory.read t.mem a = Memory.read s.mem a

/-- What `PUBLISH` leaves alone: the LSM's registers, the streams, the counter; with no step of
HOST inside it, HOST's side too (44_shared_block.md R180, R185). And when its stores happen,
under any plan (R184, R185; 20_memory.md R50 (a)): after events `pre` with at most 27 stores of
the LSM the state is a `u` that still holds the old generation, and a step of HOST that comes next
is taken in `u`; after 27 stores the block holds the frame, and the next store is that of the
generation. A frame the LSM accepts is published in the same way (42_link_fsm.md R140, R141). The
plan is the model's: log 7. -/
def Obligations.PublishFrame : Prop :=
  (∀ (f : ControlBody) (s t : State), exec (.publish f) s = .next t →
    t.state = s.state ∧ t.tDl = s.tDl ∧ t.txbuf = s.txbuf ∧ t.rx = s.rx ∧ t.tx = s.tx ∧
    t.echoed = s.echoed ∧ t.cyc = s.cyc ∧ t.params = s.params ∧ t.agenda = s.agenda ∧
    t.plans = s.plans.tail ∧ t.freeCtr = s.freeCtr ∧ (Undisturbed s → HostSideKept s t)) ∧
  (∀ (f : ControlBody) (s : State) (pre : List PublishMove) (ps : List (List PublishMove)),
    storesIn pre ≤ 27 → ∃ (u : State) (left : List (Field × Nat)),
      left.length + storesIn pre = 27 ∧ (∀ w ∈ left, w.1 ≠ .generation) ∧
      loadField u .generation = loadField s .generation ∧
      (left = [] → BlockHolds u f.groups f.status f.quality) ∧
      (∀ m post, exec (.publish f) { s with plans := (pre ++ .host m :: post) :: ps } =
        .next (runPublish post left (hostMove m u))) ∧
      ∀ k post, left = [] →
        exec (.publish f) { s with plans := (pre ++ .store k :: post) :: ps } =
          .next (storeField .generation ((loadField s .generation + 1) % 2 ^ 32) u)) ∧
  ∀ (f : ControlBody) (s u : State) (c : Byte) (rest : List Byte),
    s.rx = controlBytes f.groups f.status f.quality c ++ rest →
    check s.params (controlBytes f.groups f.status f.quality c) = true →
    exec (.publish f) { s with rx := rest } = .next u →
    exec .syncing s = .next { u with state := .readDownlink } ∧
    exec .readControl s = .next { u with state := .readDownlink }

/-- `HOST_SNAPSHOT` with no attempt in progress and no store of the LSM between its loads
(44_shared_block.md R186): NoChange, or NewData with the block's fields. -/
def Obligations.HostSnapshotResult : Prop :=
  ∀ s : State, s.copy = none →
    (loadField s .generation = s.lastSeen.toNat →
      exec .hostSnapshot s = .next { s with ret := .poll .noChange }) ∧
    (loadField s .generation ≠ s.lastSeen.toNat → ∃ c : Snapshot,
      exec .hostSnapshot s = .next { s with
        snap := some c, lastSeen := c.generation, ret := .poll .newData } ∧
      ∀ f : Field, CopyHolds s c f)

/-- `HOST_SNAPSHOT` with an attempt in progress brings that attempt to its end (the model's
choice, log 8): a changed generation discards the copy, else the fields still to load are
loaded and the copy is accepted under `g1`, with every field loaded before as it was
(44_shared_block.md R186). -/
def Obligations.HostSnapshotEndsAttempt : Prop :=
  ∀ (s : State) (c : Copy), s.copy = some c →
    (loadField s .generation ≠ c.g1.toNat →
      exec .hostSnapshot s = .next { s with
        copy := none, events := s.events ++ [.snapshotRetry], ret := .poll .retry }) ∧
    (loadField s .generation = c.g1.toNat → ∃ d : Snapshot,
      exec .hostSnapshot s = .next { s with
        copy := none, snap := some d, lastSeen := c.g1, ret := .poll .newData } ∧
      d.generation = c.g1 ∧ (∀ f ∈ c.pending, CopyHolds s d f) ∧
      ∀ f, f ∉ c.pending → f ≠ .generation → CopyAgrees c.partialCopy d f)

/-- One load of HOST (44_shared_block.md R186): the first generation load, any field load that
is left in any order (number `pick` modulo their count: log 6), with every other field of the copy
as it was, the second generation load. What a new copy holds before its loads is not stated (log
23). -/
def Obligations.HostLoadStep : Prop :=
  ∀ (s : State) (ms : List Move) (pick : Nat), s.params.linkReady = true →
    paramsOk s.params = true → s.agenda = .host (.load pick) :: ms →
    (s.copy = none → loadField s .generation = s.lastSeen.toNat →
      step s = .next { s with agenda := ms, ret := .poll .noChange }) ∧
    (s.copy = none → loadField s .generation ≠ s.lastSeen.toNat → ∃ c : Copy,
      step s = .next { s with agenda := ms, copy := some c } ∧
      c.g1.toNat = loadField s .generation ∧ c.pending = dataFields) ∧
    (∀ c : Copy, s.copy = some c → c.pending ≠ [] → ∃ (d : Copy) (f : Field),
      c.pending[pick % c.pending.length]? = some f ∧
      step s = .next { s with agenda := ms, copy := some d } ∧ d.g1 = c.g1 ∧
      d.pending = c.pending.eraseIdx (pick % c.pending.length) ∧
      (f ≠ .generation → CopyHolds s d.partialCopy f) ∧
      ∀ g, g ≠ f ∨ g = .generation → CopyAgrees c.partialCopy d.partialCopy g) ∧
    (∀ c : Copy, s.copy = some c → c.pending = [] →
      loadField s .generation ≠ c.g1.toNat →
      step s = .next { s with
        agenda := ms, copy := none, events := s.events ++ [.snapshotRetry],
        ret := .poll .retry }) ∧
    (∀ c : Copy, s.copy = some c → c.pending = [] →
      loadField s .generation = c.g1.toNat →
      step s = .next { s with
        agenda := ms, copy := none, snap := some { c.partialCopy with generation := c.g1 },
        lastSeen := c.g1, ret := .poll .newData })

/-- The handshake does not exclude a torn snapshot (44_shared_block.md R188). In one publish of any
frame, from any state in which HOST has not seen the generation: an attempt whose first `n` field
loads come before the field stores and whose others come after them is accepted under the old
generation, the first `n` fields with the block's old values, the others with the new frame's.
And the LSM and HOST come to it: in some run of loads of HOST and one step of the LSM the accepted
copy holds the old frame's quality and the new frame's channels. The plan is the model's: log
7. -/
def Obligations.TornSnapshotAdmitted : Prop :=
  (∀ (f : ControlBody) (s : State) (ps : List (List PublishMove)) (n : Nat), n ≤ 27 →
    s.copy = none → loadField s .generation ≠ s.lastSeen.toNat → ∃ (t : State) (c : Snapshot),
      exec (.publish f) { s with plans := overlapPlan n :: ps } = .next t ∧
      t.copy = none ∧ t.ret = .poll .newData ∧ t.snap = some c ∧ t.lastSeen = c.generation ∧
      c.generation.toNat = loadField s .generation ∧
      (∀ g ∈ dataFields.take n, CopyHolds s c g) ∧
      (∀ g ∈ dataFields.drop n, CopyHolds t c g) ∧
      BlockHolds t f.groups f.status f.quality ∧
      loadField t .generation = (loadField s .generation + 1) % 2 ^ 32) ∧
  ∃ (s t : State) (c : Snapshot),
    (∀ m ∈ s.agenda, m = .lsm ∨ ∃ k, m = .host (.load k)) ∧ s.agenda.count .lsm = 1 ∧
    Host.Core.run Sys2Proof.core s.agenda.length s = .next t ∧ s.snap = none ∧ s.copy = none ∧
    t.ret = .poll .newData ∧ t.snap = some c ∧ t.lastSeen = c.generation ∧
    c.generation.toNat = loadField s .generation ∧
    loadField t .generation = (loadField s .generation + 1) % 2 ^ 32 ∧
    c.quality.toNat = loadField s .quality ∧ c.quality.toNat ≠ loadField t .quality ∧
    (∀ i : Fin 24, c.channels[i].toNat = loadField t (.channel i)) ∧
    ∃ i : Fin 24, c.channels[i].toNat ≠ loadField s (.channel i)

/-- HOST never writes the block, the LSM's registers or the streams (44_shared_block.md R190,
60_exceptions.md R231). -/
def Obligations.HostNeverWritesTheBlock : Prop :=
  ∀ (s t : State) (m : Move) (ms : List Move),
    ((∃ h, m = .host h) ∨ (∃ item, m = .call (.hostPush item)) ∨ m = .call .hostSnapshot) →
    s.agenda = m :: ms → step s = .next t →
    t.mem = s.mem ∧ t.state = s.state ∧ t.tDl = s.tDl ∧ t.txbuf = s.txbuf ∧ t.rx = s.rx ∧
    t.tx = s.tx ∧ t.echoed = s.echoed ∧ t.cyc = s.cyc ∧ t.params = s.params

/-! ### The state machine -/

/-- A control frame that is complete at the front of `rx` and whose checksum is right is
accepted by `Syncing` and by `ReadControl` (42_link_fsm.md R140, R141), under any plan. -/
def Obligations.ControlFrameAccepted : Prop :=
  ∀ (s : State) (gs : Groups) (st q c : Byte) (rest : List Byte),
    s.rx = controlBytes gs st q c ++ rest →
    check s.params (controlBytes gs st q c) = true →
    (∃ t, exec .syncing s = .next t ∧ Accepted s t gs st q rest) ∧
    ∃ t, exec .readControl s = .next t ∧ Accepted s t gs st q rest

/-- `Syncing` short of acceptance (42_link_fsm.md R140, R150): it waits, or drops exactly two
bytes with `SyncLoss`. -/
def Obligations.SyncingWaitsOrDropsTwo : Prop :=
  ∀ s : State,
    (s.rx.length < 2 → exec .syncing s = .next s) ∧
    ∀ (b0 b1 : Byte) (rest : List Byte), s.rx = b0 :: b1 :: rest →
      ((∀ G, ¬ ShapeOf b0 b1 G) → exec .syncing s = .next { s with
        rx := rest, events := s.events ++ [.syncLoss] }) ∧
      ∀ G, ShapeOf b0 b1 G →
        (s.rx.length < 11 * G + 5 → exec .syncing s = .next s) ∧
        (11 * G + 5 ≤ s.rx.length → check s.params (s.rx.take (11 * G + 5)) = false →
          exec .syncing s = .next { s with
            rx := rest, events := s.events ++ [.syncLoss] })

/-- `ReadControl` short of acceptance (42_link_fsm.md R141, R150): it waits, or goes to
`Syncing` with `ControlFrameError` and drops nothing. -/
def Obligations.ReadControlWaitsOrResyncs : Prop :=
  ∀ s : State,
    (s.rx.length < 2 → exec .readControl s = .next s) ∧
    ∀ (b0 b1 : Byte) (rest : List Byte), s.rx = b0 :: b1 :: rest →
      ((∀ G, ¬ ShapeOf b0 b1 G) → exec .readControl s = .next { s with
        state := .syncing, events := s.events ++ [.controlFrameError] }) ∧
      ∀ G, ShapeOf b0 b1 G →
        (s.rx.length < 11 * G + 5 → exec .readControl s = .next s) ∧
        (11 * G + 5 ≤ s.rx.length → check s.params (s.rx.take (11 * G + 5)) = false →
          exec .readControl s = .next { s with
            state := .syncing, events := s.events ++ [.controlFrameError] })

/-- `ReadDownlink` (42_link_fsm.md R143). -/
def Obligations.ReadDownlinkStep : Prop :=
  ∀ s : State,
    (s.rx = [] → exec .readDownlink s = .next s) ∧
    (∀ b rest, s.rx = b :: rest → b ≠ 0x08 → exec .readDownlink s = .next { s with
      state := .syncing, events := s.events ++ [.downlinkFrameError .shape] }) ∧
    (∀ rest, s.rx = 0x08 :: rest → s.rx.length < 10 → exec .readDownlink s = .next s) ∧
    ∀ f rest, s.rx = f ++ rest → f.length = 10 → f[0]? = some 0x08 →
      (validateLink s.params f = none → exec .readDownlink s = .next { s with
        state := .syncing, events := s.events ++ [.downlinkFrameError .checksum] }) ∧
      (validateLink s.params f = some s.params.nodeId →
        exec .readDownlink s = .next { s with
          rx := rest, tDl := s.cyc, state := .waitWriteUplink }) ∧
      ∀ d, validateLink s.params f = some d → d ≠ s.params.nodeId →
        exec .readDownlink s = .next { s with rx := rest, state := .readUplink }

/-- `WaitWriteUplink` (42_link_fsm.md R144): wait below `T_MIN`, missed above `T_MAX`, both
bounds inclusive for building; the outbox is popped only in building. -/
def Obligations.WaitWriteUplinkStep : Prop :=
  ∀ s : State, ∀ e : Nat, e = (s.cyc - s.tDl).toNat →
    (e < s.params.tMin → exec .waitWriteUplink s = .next s) ∧
    (s.params.tMin ≤ e → s.params.tMax < e → exec .waitWriteUplink s = .next { s with
      state := .readControl, events := s.events ++ [.uplinkWindowMissed] }) ∧
    (s.params.tMin ≤ e → e ≤ s.params.tMax → s.head = s.tail →
      exec .waitWriteUplink s = .next { s with
        txbuf := buildUplink s.params s.params.nodeId { appId := 0, data := 0 }
        state := .writeUplink }) ∧
    (s.params.tMin ≤ e → e ≤ s.params.tMax → s.head ≠ s.tail →
      exec .waitWriteUplink s = .next { s with
        tail := s.tail + 1
        txbuf := buildUplink s.params s.params.nodeId s.slots[slotOf s.tail]
        state := .writeUplink })

/-- `WriteUplink` (42_link_fsm.md R145): the ten bytes are transmitted in one step. -/
def Obligations.WriteUplinkStep : Prop :=
  ∀ s : State, exec .writeUplink s = .next { s with
    tx := s.tx ++ s.txbuf.toList, state := .readUplink }

/-- `ReadUplink` (42_link_fsm.md R146). -/
def Obligations.ReadUplinkStep : Prop :=
  ∀ s : State,
    (s.rx = [] → exec .readUplink s = .next s) ∧
    (∀ b rest, s.rx = b :: rest → b ≠ 0x08 →
      exec .readUplink s = .next { s with state := .readControl }) ∧
    (∀ rest, s.rx = 0x08 :: rest → s.rx.length < 10 → exec .readUplink s = .next s) ∧
    ∀ f rest, s.rx = f ++ rest → f.length = 10 → f[0]? = some 0x08 →
      (validateLink s.params f = none → exec .readUplink s = .next { s with
        state := .syncing, events := s.events ++ [.uplinkFrameError] }) ∧
      ∀ d, validateLink s.params f = some d →
        exec .readUplink s = .next { s with rx := rest, state := .readControl }

/-! ### The frame rows -/

/-- `CTRL8`, `CTRL16`, `CTRL24` where a control frame is expected (30_encoding.md R68;
42_link_fsm.md R140, R141; 44_shared_block.md R180): accepted with the right checksum, else the
error of the state. -/
def Obligations.ControlRowsResult : Prop :=
  ∀ (s : State) (gs : Groups) (st q c : Byte) (rest : List Byte),
    s.rx = controlBytes gs st q c ++ rest →
    (check s.params (controlBytes gs st q c) = true →
      (s.state = .syncing ∨ s.state = .readControl) →
      ∃ t, exec (controlRow gs st q c) s = .next t ∧ Accepted s t gs st q rest) ∧
    (check s.params (controlBytes gs st q c) = false → s.state = .syncing →
      exec (controlRow gs st q c) s = .next { s with
        rx := s.rx.drop 2, events := s.events ++ [.syncLoss] }) ∧
    (check s.params (controlBytes gs st q c) = false → s.state = .readControl →
      exec (controlRow gs st q c) s = .next { s with
        state := .syncing, events := s.events ++ [.controlFrameError] })

/-- A control frame where a link frame is expected (30_encoding.md R68 (a); 42_link_fsm.md
R150): its size byte starts no link frame. -/
def Obligations.ControlRowsOutOfPlace : Prop :=
  ∀ (s : State) (gs : Groups) (st q c : Byte) (rest : List Byte),
    s.rx = controlBytes gs st q c ++ rest →
    (s.state = .readDownlink → exec (controlRow gs st q c) s = .next { s with
      state := .syncing, events := s.events ++ [.downlinkFrameError .shape] }) ∧
    (s.state = .readUplink →
      exec (controlRow gs st q c) s = .next { s with state := .readControl })

/-- `DL` in `ReadDownlink` (42_link_fsm.md R143): this node polled, another polled, or bad. -/
def Obligations.DownlinkRowResult : Prop :=
  ∀ (s : State) (dev prim c : Byte) (app : Word16) (data : Word) (rest : List Byte),
    s.rx = linkBytes dev prim app data c ++ rest → s.state = .readDownlink →
    (validateLink s.params (linkBytes dev prim app data c) = some dev →
      dev = s.params.nodeId → exec (.dl dev prim app data c) s = .next { s with
        rx := rest, tDl := s.cyc, state := .waitWriteUplink }) ∧
    (validateLink s.params (linkBytes dev prim app data c) = some dev →
      dev ≠ s.params.nodeId → exec (.dl dev prim app data c) s = .next { s with
        rx := rest, state := .readUplink }) ∧
    (validateLink s.params (linkBytes dev prim app data c) = none →
      exec (.dl dev prim app data c) s = .next { s with
        state := .syncing, events := s.events ++ [.downlinkFrameError .checksum] })

/-- `UL` in `ReadUplink` (42_link_fsm.md R146): read back, whoever sent it, or bad. -/
def Obligations.UplinkRowResult : Prop :=
  ∀ (s : State) (dev prim c : Byte) (app : Word16) (data : Word) (rest : List Byte),
    s.rx = linkBytes dev prim app data c ++ rest → s.state = .readUplink →
    (validateLink s.params (linkBytes dev prim app data c) = some dev →
      exec (.ul dev prim app data c) s = .next { s with
        rx := rest, state := .readControl }) ∧
    (validateLink s.params (linkBytes dev prim app data c) = none →
      exec (.ul dev prim app data c) s = .next { s with
        state := .syncing, events := s.events ++ [.uplinkFrameError] })

/-- Every frame row, in every state: with its bytes at the front of `rx` it is the step of the
current state (no bit tells a downlink from an uplink frame: 30_encoding.md R73), without them
it is refused (log 12). -/
def Obligations.FrameRowsFollowTheState : Prop :=
  ∀ (i : Instr) (s : State),
    (placeOf i = .control ∨ placeOf i = .downlink ∨ placeOf i = .uplink) →
    (encode i <+: s.rx → exec i s = exec (stateRow s.state) s) ∧
    (¬ encode i <+: s.rx → exec i s = .refused .frameNotReceived)

/-! ### Reset -/

/-- The state after reset (10_state.md R34), for the values R34 names. -/
def Obligations.ResetValues : Prop :=
  State.reset.state = .syncing ∧ (∀ f : Field, loadField State.reset f = 0) ∧
  (∀ a, Memory.read State.reset.mem a = 0) ∧ State.reset.head = 0 ∧ State.reset.tail = 0 ∧
  State.reset.rx = [] ∧ State.reset.tx = [] ∧ State.reset.lastSeen = 0 ∧
  State.reset.snap = none ∧ State.reset.events = []

/-- `RESET` (70_reset_and_hazards.md R250, R252 (b)): every value of R34, and of shared memory
only the 104 bytes of the block are zeroed. Nothing is said of the four registers that R250
leaves unspecified. -/
def Obligations.ResetResult : Prop :=
  ∀ s : State, ∃ t, exec .reset s = .next t ∧
    t.state = .syncing ∧ (∀ f : Field, loadField t f = 0) ∧
    (∀ a, s.params.scbBase ≤ a → a < s.params.scbBase + 104 → Memory.read t.mem a = 0) ∧
    (∀ a, a < s.params.scbBase ∨ s.params.scbBase + 104 ≤ a →
      Memory.read t.mem a = Memory.read s.mem a) ∧
    t.head = 0 ∧ t.tail = 0 ∧ t.rx = [] ∧ t.tx = [] ∧ t.lastSeen = 0 ∧ t.snap = none ∧
    t.copy = none ∧ t.events = [] ∧ t.params = s.params

/-! ### Invariants -/

/-- Shared memory keeps its canonical form in every step. -/
def Obligations.StepKeepsMemoryCanonical : Prop :=
  ∀ s t : State, MemoryCanonical s → step s = .next t → MemoryCanonical t

/-- It has that form after reset. -/
def Obligations.ResetMemoryCanonical : Prop := MemoryCanonical State.reset

/-- Every step keeps the block legal: each channel UNSET or within [500, 2500], in the block and
in every copy, also one made inside a publish; the count 0, 8, 16 or 24; `reserved` 0
(10_state.md R19, R20, R21; 44_shared_block.md R185). For channels a copy in progress has not
loaded yet it rests on the model's own 0 (log 23). -/
def Obligations.StepKeepsBlockLegal : Prop :=
  ∀ s t : State, BlockLegal s → step s = .next t → BlockLegal t

/-- The block is legal after reset. -/
def Obligations.ResetBlockLegal : Prop := BlockLegal State.reset

/-- Every step keeps the transmit side legal: `tx` is whole valid uplink frames of this node
with primitive 0x10, the outbox holds at most 8 items (42_link_fsm.md R151 (c), 43_outbox.md
R173 (c)). -/
def Obligations.StepKeepsUplinkLegal : Prop :=
  ∀ s t : State, UplinkLegal s → step s = .next t → UplinkLegal t

/-- The transmit side is legal after reset. -/
def Obligations.ResetUplinkLegal : Prop := UplinkLegal State.reset

/-! ### Rules of the whole machine -/

/-- The parameters never change (20_memory.md R54). -/
def Obligations.ParametersNeverChange : Prop :=
  ∀ s t : State, step s = .next t → t.params = s.params

/-- Shared memory changes only where a valid control frame is accepted, where `PUBLISH` is
called, or at `RESET` (44_shared_block.md R181, 42_link_fsm.md R151 (a)). -/
def Obligations.MemoryChangesOnlyByPublish : Prop :=
  ∀ s t : State, step s = .next t →
    t.mem = s.mem ∨
    ((s.state = .syncing ∨ s.state = .readControl) ∧ ∃ gs st q c rest,
      s.rx = controlBytes gs st q c ++ rest ∧
      check s.params (controlBytes gs st q c) = true ∧ t.state = .readDownlink ∧
      BlockHolds t gs st q ∧
      loadField t .generation = (loadField s .generation + 1) % 2 ^ 32) ∨
    (∃ f ms, s.agenda = .call (.publish f) :: ms) ∨ ∃ ms, s.agenda = .call .reset :: ms

/-- Bytes leave `rx` only as one whole validated frame, as a 2-byte drop in `Syncing`, or at
`RESET` (42_link_fsm.md R151 (b)). -/
def Obligations.RxLosesOnlyFramesAndPairs : Prop :=
  ∀ s t : State, step s = .next t →
    (∃ more, t.rx = s.rx ++ more) ∨
    (s.state = .syncing ∧ t.state = .syncing ∧ ∃ b0 b1, s.rx = b0 :: b1 :: t.rx) ∨
    (∃ f, s.rx = f ++ t.rx ∧
      ((∃ G, validateControl s.params f = some G) ∨
        ∃ d, validateLink s.params f = some d)) ∨
    ∃ ms, s.agenda = .call .reset :: ms

/-- An LSM step with no step of HOST inside it raises at most one event (60_exceptions.md
R232). -/
def Obligations.LsmRaisesAtMostOneEvent : Prop :=
  ∀ s t : State, Undisturbed s → exec (stateRow s.state) s = .next t →
    t.events = s.events ∨ ∃ e, t.events = s.events ++ [e]

/-- Resynchronisation (42_link_fsm.md R152): from `Syncing`, a prefix of byte pairs none of
which passes the shape test, then a valid control frame: after exactly one failed attempt per
pair, each a `SyncLoss`, the frame is accepted. -/
def Obligations.ResyncAfterEvenPrefix : Prop :=
  ∀ (pairs : List (Byte × Byte)) (s : State) (gs : Groups) (st q c : Byte)
    (rest : List Byte),
    s.params.linkReady = true → paramsOk s.params = true → s.agenda = [] →
    s.state = .syncing → (∀ x ∈ pairs, ∀ G, ¬ ShapeOf x.1 x.2 G) →
    check s.params (controlBytes gs st q c) = true →
    s.rx = pairs.flatMap (fun x => [x.1, x.2]) ++ controlBytes gs st q c ++ rest →
    Host.Core.run Sys2Proof.core pairs.length s = .next { s with
      rx := controlBytes gs st q c ++ rest,
      events := s.events ++ List.replicate pairs.length .syncLoss } ∧
    ∃ t, Host.Core.run Sys2Proof.core (pairs.length + 1) s = .next t ∧
      t.state = .readDownlink ∧ t.rx = rest ∧ BlockHolds t gs st q ∧
      loadField t .generation = (loadField s .generation + 1) % 2 ^ 32
end

