-- ==== Sys2Proof/Laws/State.lean ====
section
/-! SUPPORT. What each shared operation does to each field of the state: one lemma per field
per operation, so that no later proof unfolds a record update. -/

namespace Sys2Proof.Machine

open Sys2Proof

/-! ### memWrite -/

@[simp] theorem memWrite_state (addr n v : Nat) (s : State) :
    (memWrite addr n v s).state = s.state := rfl
@[simp] theorem memWrite_tDl (addr n v : Nat) (s : State) :
    (memWrite addr n v s).tDl = s.tDl := rfl
@[simp] theorem memWrite_txbuf (addr n v : Nat) (s : State) :
    (memWrite addr n v s).txbuf = s.txbuf := rfl
@[simp] theorem memWrite_mem (addr n v : Nat) (s : State) :
    (memWrite addr n v s).mem = Memory.writeLE s.mem addr n v := rfl
@[simp] theorem memWrite_slots (addr n v : Nat) (s : State) :
    (memWrite addr n v s).slots = s.slots := rfl
@[simp] theorem memWrite_head (addr n v : Nat) (s : State) :
    (memWrite addr n v s).head = s.head := rfl
@[simp] theorem memWrite_tail (addr n v : Nat) (s : State) :
    (memWrite addr n v s).tail = s.tail := rfl
@[simp] theorem memWrite_rx (addr n v : Nat) (s : State) : (memWrite addr n v s).rx = s.rx := rfl
@[simp] theorem memWrite_tx (addr n v : Nat) (s : State) : (memWrite addr n v s).tx = s.tx := rfl
@[simp] theorem memWrite_echoed (addr n v : Nat) (s : State) :
    (memWrite addr n v s).echoed = s.echoed := rfl
@[simp] theorem memWrite_cyc (addr n v : Nat) (s : State) :
    (memWrite addr n v s).cyc = s.cyc := rfl
@[simp] theorem memWrite_lastSeen (addr n v : Nat) (s : State) :
    (memWrite addr n v s).lastSeen = s.lastSeen := rfl
@[simp] theorem memWrite_snap (addr n v : Nat) (s : State) :
    (memWrite addr n v s).snap = s.snap := rfl
@[simp] theorem memWrite_copy (addr n v : Nat) (s : State) :
    (memWrite addr n v s).copy = s.copy := rfl
@[simp] theorem memWrite_events (addr n v : Nat) (s : State) :
    (memWrite addr n v s).events = s.events := rfl
@[simp] theorem memWrite_params (addr n v : Nat) (s : State) :
    (memWrite addr n v s).params = s.params := rfl
@[simp] theorem memWrite_agenda (addr n v : Nat) (s : State) :
    (memWrite addr n v s).agenda = s.agenda := rfl
@[simp] theorem memWrite_plans (addr n v : Nat) (s : State) :
    (memWrite addr n v s).plans = s.plans := rfl
@[simp] theorem memWrite_ret (addr n v : Nat) (s : State) :
    (memWrite addr n v s).ret = s.ret := rfl
@[simp] theorem memWrite_freeCtr (addr n v : Nat) (s : State) :
    (memWrite addr n v s).freeCtr = s.freeCtr := rfl

/-! ### storeField -/

@[simp] theorem storeField_state (f : Field) (v : Nat) (s : State) :
    (storeField f v s).state = s.state := rfl
@[simp] theorem storeField_tDl (f : Field) (v : Nat) (s : State) :
    (storeField f v s).tDl = s.tDl := rfl
@[simp] theorem storeField_txbuf (f : Field) (v : Nat) (s : State) :
    (storeField f v s).txbuf = s.txbuf := rfl
@[simp] theorem storeField_mem (f : Field) (v : Nat) (s : State) :
    (storeField f v s).mem = Memory.writeLE s.mem (s.params.scbBase + f.offset) f.width v := rfl
@[simp] theorem storeField_slots (f : Field) (v : Nat) (s : State) :
    (storeField f v s).slots = s.slots := rfl
@[simp] theorem storeField_head (f : Field) (v : Nat) (s : State) :
    (storeField f v s).head = s.head := rfl
@[simp] theorem storeField_tail (f : Field) (v : Nat) (s : State) :
    (storeField f v s).tail = s.tail := rfl
@[simp] theorem storeField_rx (f : Field) (v : Nat) (s : State) :
    (storeField f v s).rx = s.rx := rfl
@[simp] theorem storeField_tx (f : Field) (v : Nat) (s : State) :
    (storeField f v s).tx = s.tx := rfl
@[simp] theorem storeField_echoed (f : Field) (v : Nat) (s : State) :
    (storeField f v s).echoed = s.echoed := rfl
@[simp] theorem storeField_cyc (f : Field) (v : Nat) (s : State) :
    (storeField f v s).cyc = s.cyc := rfl
@[simp] theorem storeField_lastSeen (f : Field) (v : Nat) (s : State) :
    (storeField f v s).lastSeen = s.lastSeen := rfl
@[simp] theorem storeField_snap (f : Field) (v : Nat) (s : State) :
    (storeField f v s).snap = s.snap := rfl
@[simp] theorem storeField_copy (f : Field) (v : Nat) (s : State) :
    (storeField f v s).copy = s.copy := rfl
@[simp] theorem storeField_events (f : Field) (v : Nat) (s : State) :
    (storeField f v s).events = s.events := rfl
@[simp] theorem storeField_params (f : Field) (v : Nat) (s : State) :
    (storeField f v s).params = s.params := rfl
@[simp] theorem storeField_agenda (f : Field) (v : Nat) (s : State) :
    (storeField f v s).agenda = s.agenda := rfl
@[simp] theorem storeField_plans (f : Field) (v : Nat) (s : State) :
    (storeField f v s).plans = s.plans := rfl
@[simp] theorem storeField_ret (f : Field) (v : Nat) (s : State) :
    (storeField f v s).ret = s.ret := rfl
@[simp] theorem storeField_freeCtr (f : Field) (v : Nat) (s : State) :
    (storeField f v s).freeCtr = s.freeCtr := rfl

/-! ### rxDrop -/

@[simp] theorem rxDrop_state (n : Nat) (s : State) : (rxDrop n s).state = s.state := rfl
@[simp] theorem rxDrop_tDl (n : Nat) (s : State) : (rxDrop n s).tDl = s.tDl := rfl
@[simp] theorem rxDrop_txbuf (n : Nat) (s : State) : (rxDrop n s).txbuf = s.txbuf := rfl
@[simp] theorem rxDrop_mem (n : Nat) (s : State) : (rxDrop n s).mem = s.mem := rfl
@[simp] theorem rxDrop_slots (n : Nat) (s : State) : (rxDrop n s).slots = s.slots := rfl
@[simp] theorem rxDrop_head (n : Nat) (s : State) : (rxDrop n s).head = s.head := rfl
@[simp] theorem rxDrop_tail (n : Nat) (s : State) : (rxDrop n s).tail = s.tail := rfl
@[simp] theorem rxDrop_rx (n : Nat) (s : State) : (rxDrop n s).rx = s.rx.drop n := rfl
@[simp] theorem rxDrop_tx (n : Nat) (s : State) : (rxDrop n s).tx = s.tx := rfl
@[simp] theorem rxDrop_echoed (n : Nat) (s : State) : (rxDrop n s).echoed = s.echoed := rfl
@[simp] theorem rxDrop_cyc (n : Nat) (s : State) : (rxDrop n s).cyc = s.cyc := rfl
@[simp] theorem rxDrop_lastSeen (n : Nat) (s : State) : (rxDrop n s).lastSeen = s.lastSeen := rfl
@[simp] theorem rxDrop_snap (n : Nat) (s : State) : (rxDrop n s).snap = s.snap := rfl
@[simp] theorem rxDrop_copy (n : Nat) (s : State) : (rxDrop n s).copy = s.copy := rfl
@[simp] theorem rxDrop_events (n : Nat) (s : State) : (rxDrop n s).events = s.events := rfl
@[simp] theorem rxDrop_params (n : Nat) (s : State) : (rxDrop n s).params = s.params := rfl
@[simp] theorem rxDrop_agenda (n : Nat) (s : State) : (rxDrop n s).agenda = s.agenda := rfl
@[simp] theorem rxDrop_plans (n : Nat) (s : State) : (rxDrop n s).plans = s.plans := rfl
@[simp] theorem rxDrop_ret (n : Nat) (s : State) : (rxDrop n s).ret = s.ret := rfl
@[simp] theorem rxDrop_freeCtr (n : Nat) (s : State) : (rxDrop n s).freeCtr = s.freeCtr := rfl

/-! ### txWrite -/

@[simp] theorem txWrite_state (b : List Byte) (s : State) : (txWrite b s).state = s.state := rfl
@[simp] theorem txWrite_tDl (b : List Byte) (s : State) : (txWrite b s).tDl = s.tDl := rfl
@[simp] theorem txWrite_txbuf (b : List Byte) (s : State) : (txWrite b s).txbuf = s.txbuf := rfl
@[simp] theorem txWrite_mem (b : List Byte) (s : State) : (txWrite b s).mem = s.mem := rfl
@[simp] theorem txWrite_slots (b : List Byte) (s : State) : (txWrite b s).slots = s.slots := rfl
@[simp] theorem txWrite_head (b : List Byte) (s : State) : (txWrite b s).head = s.head := rfl
@[simp] theorem txWrite_tail (b : List Byte) (s : State) : (txWrite b s).tail = s.tail := rfl
@[simp] theorem txWrite_rx (b : List Byte) (s : State) : (txWrite b s).rx = s.rx := rfl
@[simp] theorem txWrite_tx (b : List Byte) (s : State) : (txWrite b s).tx = s.tx ++ b := rfl
@[simp] theorem txWrite_echoed (b : List Byte) (s : State) : (txWrite b s).echoed = s.echoed := rfl
@[simp] theorem txWrite_cyc (b : List Byte) (s : State) : (txWrite b s).cyc = s.cyc := rfl
@[simp] theorem txWrite_lastSeen (b : List Byte) (s : State) :
    (txWrite b s).lastSeen = s.lastSeen := rfl
@[simp] theorem txWrite_snap (b : List Byte) (s : State) : (txWrite b s).snap = s.snap := rfl
@[simp] theorem txWrite_copy (b : List Byte) (s : State) : (txWrite b s).copy = s.copy := rfl
@[simp] theorem txWrite_events (b : List Byte) (s : State) : (txWrite b s).events = s.events := rfl
@[simp] theorem txWrite_params (b : List Byte) (s : State) : (txWrite b s).params = s.params := rfl
@[simp] theorem txWrite_agenda (b : List Byte) (s : State) : (txWrite b s).agenda = s.agenda := rfl
@[simp] theorem txWrite_plans (b : List Byte) (s : State) : (txWrite b s).plans = s.plans := rfl
@[simp] theorem txWrite_ret (b : List Byte) (s : State) : (txWrite b s).ret = s.ret := rfl
@[simp] theorem txWrite_freeCtr (b : List Byte) (s : State) :
    (txWrite b s).freeCtr = s.freeCtr := rfl

/-! ### raise -/

@[simp] theorem raise_state (e : Event) (s : State) : (raise e s).state = s.state := rfl
@[simp] theorem raise_tDl (e : Event) (s : State) : (raise e s).tDl = s.tDl := rfl
@[simp] theorem raise_txbuf (e : Event) (s : State) : (raise e s).txbuf = s.txbuf := rfl
@[simp] theorem raise_mem (e : Event) (s : State) : (raise e s).mem = s.mem := rfl
@[simp] theorem raise_slots (e : Event) (s : State) : (raise e s).slots = s.slots := rfl
@[simp] theorem raise_head (e : Event) (s : State) : (raise e s).head = s.head := rfl
@[simp] theorem raise_tail (e : Event) (s : State) : (raise e s).tail = s.tail := rfl
@[simp] theorem raise_rx (e : Event) (s : State) : (raise e s).rx = s.rx := rfl
@[simp] theorem raise_tx (e : Event) (s : State) : (raise e s).tx = s.tx := rfl
@[simp] theorem raise_echoed (e : Event) (s : State) : (raise e s).echoed = s.echoed := rfl
@[simp] theorem raise_cyc (e : Event) (s : State) : (raise e s).cyc = s.cyc := rfl
@[simp] theorem raise_lastSeen (e : Event) (s : State) : (raise e s).lastSeen = s.lastSeen := rfl
@[simp] theorem raise_snap (e : Event) (s : State) : (raise e s).snap = s.snap := rfl
@[simp] theorem raise_copy (e : Event) (s : State) : (raise e s).copy = s.copy := rfl
@[simp] theorem raise_events (e : Event) (s : State) : (raise e s).events = s.events ++ [e] := rfl
@[simp] theorem raise_params (e : Event) (s : State) : (raise e s).params = s.params := rfl
@[simp] theorem raise_agenda (e : Event) (s : State) : (raise e s).agenda = s.agenda := rfl
@[simp] theorem raise_plans (e : Event) (s : State) : (raise e s).plans = s.plans := rfl
@[simp] theorem raise_ret (e : Event) (s : State) : (raise e s).ret = s.ret := rfl
@[simp] theorem raise_freeCtr (e : Event) (s : State) : (raise e s).freeCtr = s.freeCtr := rfl

/-! ### goTo -/

@[simp] theorem goTo_state (st : LinkState) (s : State) : (goTo st s).state = st := rfl
@[simp] theorem goTo_tDl (st : LinkState) (s : State) : (goTo st s).tDl = s.tDl := rfl
@[simp] theorem goTo_txbuf (st : LinkState) (s : State) : (goTo st s).txbuf = s.txbuf := rfl
@[simp] theorem goTo_mem (st : LinkState) (s : State) : (goTo st s).mem = s.mem := rfl
@[simp] theorem goTo_slots (st : LinkState) (s : State) : (goTo st s).slots = s.slots := rfl
@[simp] theorem goTo_head (st : LinkState) (s : State) : (goTo st s).head = s.head := rfl
@[simp] theorem goTo_tail (st : LinkState) (s : State) : (goTo st s).tail = s.tail := rfl
@[simp] theorem goTo_rx (st : LinkState) (s : State) : (goTo st s).rx = s.rx := rfl
@[simp] theorem goTo_tx (st : LinkState) (s : State) : (goTo st s).tx = s.tx := rfl
@[simp] theorem goTo_echoed (st : LinkState) (s : State) : (goTo st s).echoed = s.echoed := rfl
@[simp] theorem goTo_cyc (st : LinkState) (s : State) : (goTo st s).cyc = s.cyc := rfl
@[simp] theorem goTo_lastSeen (st : LinkState) (s : State) :
    (goTo st s).lastSeen = s.lastSeen := rfl
@[simp] theorem goTo_snap (st : LinkState) (s : State) : (goTo st s).snap = s.snap := rfl
@[simp] theorem goTo_copy (st : LinkState) (s : State) : (goTo st s).copy = s.copy := rfl
@[simp] theorem goTo_events (st : LinkState) (s : State) : (goTo st s).events = s.events := rfl
@[simp] theorem goTo_params (st : LinkState) (s : State) : (goTo st s).params = s.params := rfl
@[simp] theorem goTo_agenda (st : LinkState) (s : State) : (goTo st s).agenda = s.agenda := rfl
@[simp] theorem goTo_plans (st : LinkState) (s : State) : (goTo st s).plans = s.plans := rfl
@[simp] theorem goTo_ret (st : LinkState) (s : State) : (goTo st s).ret = s.ret := rfl
@[simp] theorem goTo_freeCtr (st : LinkState) (s : State) : (goTo st s).freeCtr = s.freeCtr := rfl

/-! ### answer -/

@[simp] theorem answer_state (r : Ret) (s : State) : (answer r s).state = s.state := rfl
@[simp] theorem answer_tDl (r : Ret) (s : State) : (answer r s).tDl = s.tDl := rfl
@[simp] theorem answer_txbuf (r : Ret) (s : State) : (answer r s).txbuf = s.txbuf := rfl
@[simp] theorem answer_mem (r : Ret) (s : State) : (answer r s).mem = s.mem := rfl
@[simp] theorem answer_slots (r : Ret) (s : State) : (answer r s).slots = s.slots := rfl
@[simp] theorem answer_head (r : Ret) (s : State) : (answer r s).head = s.head := rfl
@[simp] theorem answer_tail (r : Ret) (s : State) : (answer r s).tail = s.tail := rfl
@[simp] theorem answer_rx (r : Ret) (s : State) : (answer r s).rx = s.rx := rfl
@[simp] theorem answer_tx (r : Ret) (s : State) : (answer r s).tx = s.tx := rfl
@[simp] theorem answer_echoed (r : Ret) (s : State) : (answer r s).echoed = s.echoed := rfl
@[simp] theorem answer_cyc (r : Ret) (s : State) : (answer r s).cyc = s.cyc := rfl
@[simp] theorem answer_lastSeen (r : Ret) (s : State) : (answer r s).lastSeen = s.lastSeen := rfl
@[simp] theorem answer_snap (r : Ret) (s : State) : (answer r s).snap = s.snap := rfl
@[simp] theorem answer_copy (r : Ret) (s : State) : (answer r s).copy = s.copy := rfl
@[simp] theorem answer_events (r : Ret) (s : State) : (answer r s).events = s.events := rfl
@[simp] theorem answer_params (r : Ret) (s : State) : (answer r s).params = s.params := rfl
@[simp] theorem answer_agenda (r : Ret) (s : State) : (answer r s).agenda = s.agenda := rfl
@[simp] theorem answer_plans (r : Ret) (s : State) : (answer r s).plans = s.plans := rfl
@[simp] theorem answer_ret (r : Ret) (s : State) : (answer r s).ret = r := rfl
@[simp] theorem answer_freeCtr (r : Ret) (s : State) : (answer r s).freeCtr = s.freeCtr := rfl

/-! ### bumpGeneration -/

@[simp] theorem bumpGeneration_state (s : State) : (bumpGeneration s).state = s.state := rfl
@[simp] theorem bumpGeneration_tDl (s : State) : (bumpGeneration s).tDl = s.tDl := rfl
@[simp] theorem bumpGeneration_txbuf (s : State) : (bumpGeneration s).txbuf = s.txbuf := rfl
@[simp] theorem bumpGeneration_mem (s : State) :
    (bumpGeneration s).mem = Memory.writeLE s.mem (s.params.scbBase + Field.generation.offset) Field.generation.width
      ((loadField s .generation + 1) % 2 ^ 32) := rfl
@[simp] theorem bumpGeneration_slots (s : State) : (bumpGeneration s).slots = s.slots := rfl
@[simp] theorem bumpGeneration_head (s : State) : (bumpGeneration s).head = s.head := rfl
@[simp] theorem bumpGeneration_tail (s : State) : (bumpGeneration s).tail = s.tail := rfl
@[simp] theorem bumpGeneration_rx (s : State) : (bumpGeneration s).rx = s.rx := rfl
@[simp] theorem bumpGeneration_tx (s : State) : (bumpGeneration s).tx = s.tx := rfl
@[simp] theorem bumpGeneration_echoed (s : State) : (bumpGeneration s).echoed = s.echoed := rfl
@[simp] theorem bumpGeneration_cyc (s : State) : (bumpGeneration s).cyc = s.cyc := rfl
@[simp] theorem bumpGeneration_lastSeen (s : State) :
    (bumpGeneration s).lastSeen = s.lastSeen := rfl
@[simp] theorem bumpGeneration_snap (s : State) : (bumpGeneration s).snap = s.snap := rfl
@[simp] theorem bumpGeneration_copy (s : State) : (bumpGeneration s).copy = s.copy := rfl
@[simp] theorem bumpGeneration_events (s : State) : (bumpGeneration s).events = s.events := rfl
@[simp] theorem bumpGeneration_params (s : State) : (bumpGeneration s).params = s.params := rfl
@[simp] theorem bumpGeneration_agenda (s : State) : (bumpGeneration s).agenda = s.agenda := rfl
@[simp] theorem bumpGeneration_plans (s : State) : (bumpGeneration s).plans = s.plans := rfl
@[simp] theorem bumpGeneration_ret (s : State) : (bumpGeneration s).ret = s.ret := rfl
@[simp] theorem bumpGeneration_freeCtr (s : State) : (bumpGeneration s).freeCtr = s.freeCtr := rfl

/-! ### errorEntry -/

@[simp] theorem errorEntry_state (e : Event) (st : LinkState) (s : State) :
    (errorEntry e st s).state = st := rfl
@[simp] theorem errorEntry_tDl (e : Event) (st : LinkState) (s : State) :
    (errorEntry e st s).tDl = s.tDl := rfl
@[simp] theorem errorEntry_txbuf (e : Event) (st : LinkState) (s : State) :
    (errorEntry e st s).txbuf = s.txbuf := rfl
@[simp] theorem errorEntry_mem (e : Event) (st : LinkState) (s : State) :
    (errorEntry e st s).mem = s.mem := rfl
@[simp] theorem errorEntry_slots (e : Event) (st : LinkState) (s : State) :
    (errorEntry e st s).slots = s.slots := rfl
@[simp] theorem errorEntry_head (e : Event) (st : LinkState) (s : State) :
    (errorEntry e st s).head = s.head := rfl
@[simp] theorem errorEntry_tail (e : Event) (st : LinkState) (s : State) :
    (errorEntry e st s).tail = s.tail := rfl
@[simp] theorem errorEntry_rx (e : Event) (st : LinkState) (s : State) :
    (errorEntry e st s).rx = s.rx := rfl
@[simp] theorem errorEntry_tx (e : Event) (st : LinkState) (s : State) :
    (errorEntry e st s).tx = s.tx := rfl
@[simp] theorem errorEntry_echoed (e : Event) (st : LinkState) (s : State) :
    (errorEntry e st s).echoed = s.echoed := rfl
@[simp] theorem errorEntry_cyc (e : Event) (st : LinkState) (s : State) :
    (errorEntry e st s).cyc = s.cyc := rfl
@[simp] theorem errorEntry_lastSeen (e : Event) (st : LinkState) (s : State) :
    (errorEntry e st s).lastSeen = s.lastSeen := rfl
@[simp] theorem errorEntry_snap (e : Event) (st : LinkState) (s : State) :
    (errorEntry e st s).snap = s.snap := rfl
@[simp] theorem errorEntry_copy (e : Event) (st : LinkState) (s : State) :
    (errorEntry e st s).copy = s.copy := rfl
@[simp] theorem errorEntry_events (e : Event) (st : LinkState) (s : State) :
    (errorEntry e st s).events = s.events ++ [e] := rfl
@[simp] theorem errorEntry_params (e : Event) (st : LinkState) (s : State) :
    (errorEntry e st s).params = s.params := rfl
@[simp] theorem errorEntry_agenda (e : Event) (st : LinkState) (s : State) :
    (errorEntry e st s).agenda = s.agenda := rfl
@[simp] theorem errorEntry_plans (e : Event) (st : LinkState) (s : State) :
    (errorEntry e st s).plans = s.plans := rfl
@[simp] theorem errorEntry_ret (e : Event) (st : LinkState) (s : State) :
    (errorEntry e st s).ret = s.ret := rfl
@[simp] theorem errorEntry_freeCtr (e : Event) (st : LinkState) (s : State) :
    (errorEntry e st s).freeCtr = s.freeCtr := rfl

/-! ### resetState -/

@[simp] theorem resetState_state (s : State) : (resetState s).state = .syncing := rfl
@[simp] theorem resetState_tDl (s : State) : (resetState s).tDl = Config.freeWord s.freeCtr := rfl
@[simp] theorem resetState_txbuf (s : State) : (resetState s).txbuf = freeBytes (s.freeCtr + 2) := rfl
@[simp] theorem resetState_mem (s : State) : (resetState s).mem = clearBlock s := rfl
@[simp] theorem resetState_slots (s : State) : (resetState s).slots = freeItems (s.freeCtr + 12) := rfl
@[simp] theorem resetState_head (s : State) : (resetState s).head = 0 := rfl
@[simp] theorem resetState_tail (s : State) : (resetState s).tail = 0 := rfl
@[simp] theorem resetState_rx (s : State) : (resetState s).rx = [] := rfl
@[simp] theorem resetState_tx (s : State) : (resetState s).tx = [] := rfl
@[simp] theorem resetState_echoed (s : State) : (resetState s).echoed = 0 := rfl
@[simp] theorem resetState_cyc (s : State) : (resetState s).cyc = Config.freeWord (s.freeCtr + 1) := rfl
@[simp] theorem resetState_lastSeen (s : State) : (resetState s).lastSeen = 0 := rfl
@[simp] theorem resetState_snap (s : State) : (resetState s).snap = none := rfl
@[simp] theorem resetState_copy (s : State) : (resetState s).copy = none := rfl
@[simp] theorem resetState_events (s : State) : (resetState s).events = [] := rfl
@[simp] theorem resetState_params (s : State) : (resetState s).params = s.params := rfl
@[simp] theorem resetState_agenda (s : State) : (resetState s).agenda = s.agenda := rfl
@[simp] theorem resetState_plans (s : State) : (resetState s).plans = s.plans := rfl
@[simp] theorem resetState_ret (s : State) : (resetState s).ret = .none := rfl
@[simp] theorem resetState_freeCtr (s : State) : (resetState s).freeCtr = s.freeCtr + freePerReset := rfl

/-! ### What an operation leaves of the block's fields -/

@[simp] theorem loadField_rxDrop (n : Nat) (s : State) (f : Field) :
    loadField (rxDrop n s) f = loadField s f := rfl
@[simp] theorem loadField_txWrite (b : List Byte) (s : State) (f : Field) :
    loadField (txWrite b s) f = loadField s f := rfl
@[simp] theorem loadField_raise (e : Event) (s : State) (f : Field) :
    loadField (raise e s) f = loadField s f := rfl
@[simp] theorem loadField_goTo (st : LinkState) (s : State) (f : Field) :
    loadField (goTo st s) f = loadField s f := rfl
@[simp] theorem loadField_answer (r : Ret) (s : State) (f : Field) :
    loadField (answer r s) f = loadField s f := rfl
@[simp] theorem loadField_errorEntry (e : Event) (st : LinkState) (s : State) (f : Field) :
    loadField (errorEntry e st s) f = loadField s f := rfl

end Sys2Proof.Machine
end

