-- ==== Sys2Proof/Laws/Host.lean ====
section
/-! SUPPORT. What a step of HOST, a push, a pop and a snapshot leave alone: they never touch
shared memory, the LSM's registers, the streams, the counter or the model's oracles
(20_memory.md R41, 60_exceptions.md R231). -/

namespace Sys2Proof.Machine

open Sys2Proof

/-! ### Outbox operations -/

@[simp] theorem dropOldest_state (s : State) :
    (dropOldest s).state = s.state := by
  unfold dropOldest; split <;> rfl
@[simp] theorem dropOldest_tDl (s : State) :
    (dropOldest s).tDl = s.tDl := by
  unfold dropOldest; split <;> rfl
@[simp] theorem dropOldest_txbuf (s : State) :
    (dropOldest s).txbuf = s.txbuf := by
  unfold dropOldest; split <;> rfl
@[simp] theorem dropOldest_mem (s : State) :
    (dropOldest s).mem = s.mem := by
  unfold dropOldest; split <;> rfl
@[simp] theorem dropOldest_rx (s : State) :
    (dropOldest s).rx = s.rx := by
  unfold dropOldest; split <;> rfl
@[simp] theorem dropOldest_tx (s : State) :
    (dropOldest s).tx = s.tx := by
  unfold dropOldest; split <;> rfl
@[simp] theorem dropOldest_echoed (s : State) :
    (dropOldest s).echoed = s.echoed := by
  unfold dropOldest; split <;> rfl
@[simp] theorem dropOldest_cyc (s : State) :
    (dropOldest s).cyc = s.cyc := by
  unfold dropOldest; split <;> rfl
@[simp] theorem dropOldest_params (s : State) :
    (dropOldest s).params = s.params := by
  unfold dropOldest; split <;> rfl
@[simp] theorem dropOldest_agenda (s : State) :
    (dropOldest s).agenda = s.agenda := by
  unfold dropOldest; split <;> rfl
@[simp] theorem dropOldest_plans (s : State) :
    (dropOldest s).plans = s.plans := by
  unfold dropOldest; split <;> rfl
@[simp] theorem dropOldest_freeCtr (s : State) :
    (dropOldest s).freeCtr = s.freeCtr := by
  unfold dropOldest; split <;> rfl
@[simp] theorem dropOldest_lastSeen (s : State) :
    (dropOldest s).lastSeen = s.lastSeen := by
  unfold dropOldest; split <;> rfl
@[simp] theorem dropOldest_snap (s : State) :
    (dropOldest s).snap = s.snap := by
  unfold dropOldest; split <;> rfl
@[simp] theorem dropOldest_copy (s : State) :
    (dropOldest s).copy = s.copy := by
  unfold dropOldest; split <;> rfl
@[simp] theorem dropOldest_ret (s : State) :
    (dropOldest s).ret = s.ret := by
  unfold dropOldest; split <;> rfl
@[simp] theorem dropOldest_slots (s : State) :
    (dropOldest s).slots = s.slots := by
  unfold dropOldest; split <;> rfl
@[simp] theorem dropOldest_head (s : State) :
    (dropOldest s).head = s.head := by
  unfold dropOldest; split <;> rfl

@[simp] theorem pushItem_state (item : TelemetryItem) (s : State) :
    (pushItem item s).state = s.state := by
  simp [pushItem]
@[simp] theorem pushItem_tDl (item : TelemetryItem) (s : State) :
    (pushItem item s).tDl = s.tDl := by
  simp [pushItem]
@[simp] theorem pushItem_txbuf (item : TelemetryItem) (s : State) :
    (pushItem item s).txbuf = s.txbuf := by
  simp [pushItem]
@[simp] theorem pushItem_mem (item : TelemetryItem) (s : State) :
    (pushItem item s).mem = s.mem := by
  simp [pushItem]
@[simp] theorem pushItem_rx (item : TelemetryItem) (s : State) :
    (pushItem item s).rx = s.rx := by
  simp [pushItem]
@[simp] theorem pushItem_tx (item : TelemetryItem) (s : State) :
    (pushItem item s).tx = s.tx := by
  simp [pushItem]
@[simp] theorem pushItem_echoed (item : TelemetryItem) (s : State) :
    (pushItem item s).echoed = s.echoed := by
  simp [pushItem]
@[simp] theorem pushItem_cyc (item : TelemetryItem) (s : State) :
    (pushItem item s).cyc = s.cyc := by
  simp [pushItem]
@[simp] theorem pushItem_params (item : TelemetryItem) (s : State) :
    (pushItem item s).params = s.params := by
  simp [pushItem]
@[simp] theorem pushItem_agenda (item : TelemetryItem) (s : State) :
    (pushItem item s).agenda = s.agenda := by
  simp [pushItem]
@[simp] theorem pushItem_plans (item : TelemetryItem) (s : State) :
    (pushItem item s).plans = s.plans := by
  simp [pushItem]
@[simp] theorem pushItem_freeCtr (item : TelemetryItem) (s : State) :
    (pushItem item s).freeCtr = s.freeCtr := by
  simp [pushItem]
@[simp] theorem pushItem_lastSeen (item : TelemetryItem) (s : State) :
    (pushItem item s).lastSeen = s.lastSeen := by
  simp [pushItem]
@[simp] theorem pushItem_snap (item : TelemetryItem) (s : State) :
    (pushItem item s).snap = s.snap := by
  simp [pushItem]
@[simp] theorem pushItem_copy (item : TelemetryItem) (s : State) :
    (pushItem item s).copy = s.copy := by
  simp [pushItem]
@[simp] theorem pushItem_ret (item : TelemetryItem) (s : State) :
    (pushItem item s).ret = s.ret := by
  simp [pushItem]

@[simp] theorem afterPop_state (s : State) :
    (afterPop s).state = s.state := by
  unfold afterPop; split <;> rfl
@[simp] theorem afterPop_tDl (s : State) :
    (afterPop s).tDl = s.tDl := by
  unfold afterPop; split <;> rfl
@[simp] theorem afterPop_txbuf (s : State) :
    (afterPop s).txbuf = s.txbuf := by
  unfold afterPop; split <;> rfl
@[simp] theorem afterPop_mem (s : State) :
    (afterPop s).mem = s.mem := by
  unfold afterPop; split <;> rfl
@[simp] theorem afterPop_rx (s : State) :
    (afterPop s).rx = s.rx := by
  unfold afterPop; split <;> rfl
@[simp] theorem afterPop_tx (s : State) :
    (afterPop s).tx = s.tx := by
  unfold afterPop; split <;> rfl
@[simp] theorem afterPop_echoed (s : State) :
    (afterPop s).echoed = s.echoed := by
  unfold afterPop; split <;> rfl
@[simp] theorem afterPop_cyc (s : State) :
    (afterPop s).cyc = s.cyc := by
  unfold afterPop; split <;> rfl
@[simp] theorem afterPop_params (s : State) :
    (afterPop s).params = s.params := by
  unfold afterPop; split <;> rfl
@[simp] theorem afterPop_agenda (s : State) :
    (afterPop s).agenda = s.agenda := by
  unfold afterPop; split <;> rfl
@[simp] theorem afterPop_plans (s : State) :
    (afterPop s).plans = s.plans := by
  unfold afterPop; split <;> rfl
@[simp] theorem afterPop_freeCtr (s : State) :
    (afterPop s).freeCtr = s.freeCtr := by
  unfold afterPop; split <;> rfl
@[simp] theorem afterPop_lastSeen (s : State) :
    (afterPop s).lastSeen = s.lastSeen := by
  unfold afterPop; split <;> rfl
@[simp] theorem afterPop_snap (s : State) :
    (afterPop s).snap = s.snap := by
  unfold afterPop; split <;> rfl
@[simp] theorem afterPop_copy (s : State) :
    (afterPop s).copy = s.copy := by
  unfold afterPop; split <;> rfl
@[simp] theorem afterPop_ret (s : State) :
    (afterPop s).ret = s.ret := by
  unfold afterPop; split <;> rfl
@[simp] theorem afterPop_slots (s : State) :
    (afterPop s).slots = s.slots := by
  unfold afterPop; split <;> rfl
@[simp] theorem afterPop_head (s : State) :
    (afterPop s).head = s.head := by
  unfold afterPop; split <;> rfl
@[simp] theorem afterPop_events (s : State) :
    (afterPop s).events = s.events := by
  unfold afterPop; split <;> rfl

/-! ### Loads -/

@[simp] theorem hostFirstLoad_state (s : State) :
    (hostFirstLoad s).state = s.state := by
  unfold hostFirstLoad; dsimp only; split <;> rfl
@[simp] theorem hostFirstLoad_tDl (s : State) :
    (hostFirstLoad s).tDl = s.tDl := by
  unfold hostFirstLoad; dsimp only; split <;> rfl
@[simp] theorem hostFirstLoad_txbuf (s : State) :
    (hostFirstLoad s).txbuf = s.txbuf := by
  unfold hostFirstLoad; dsimp only; split <;> rfl
@[simp] theorem hostFirstLoad_mem (s : State) :
    (hostFirstLoad s).mem = s.mem := by
  unfold hostFirstLoad; dsimp only; split <;> rfl
@[simp] theorem hostFirstLoad_rx (s : State) :
    (hostFirstLoad s).rx = s.rx := by
  unfold hostFirstLoad; dsimp only; split <;> rfl
@[simp] theorem hostFirstLoad_tx (s : State) :
    (hostFirstLoad s).tx = s.tx := by
  unfold hostFirstLoad; dsimp only; split <;> rfl
@[simp] theorem hostFirstLoad_echoed (s : State) :
    (hostFirstLoad s).echoed = s.echoed := by
  unfold hostFirstLoad; dsimp only; split <;> rfl
@[simp] theorem hostFirstLoad_cyc (s : State) :
    (hostFirstLoad s).cyc = s.cyc := by
  unfold hostFirstLoad; dsimp only; split <;> rfl
@[simp] theorem hostFirstLoad_params (s : State) :
    (hostFirstLoad s).params = s.params := by
  unfold hostFirstLoad; dsimp only; split <;> rfl
@[simp] theorem hostFirstLoad_agenda (s : State) :
    (hostFirstLoad s).agenda = s.agenda := by
  unfold hostFirstLoad; dsimp only; split <;> rfl
@[simp] theorem hostFirstLoad_plans (s : State) :
    (hostFirstLoad s).plans = s.plans := by
  unfold hostFirstLoad; dsimp only; split <;> rfl
@[simp] theorem hostFirstLoad_freeCtr (s : State) :
    (hostFirstLoad s).freeCtr = s.freeCtr := by
  unfold hostFirstLoad; dsimp only; split <;> rfl
@[simp] theorem hostFirstLoad_slots (s : State) :
    (hostFirstLoad s).slots = s.slots := by
  unfold hostFirstLoad; dsimp only; split <;> rfl
@[simp] theorem hostFirstLoad_head (s : State) :
    (hostFirstLoad s).head = s.head := by
  unfold hostFirstLoad; dsimp only; split <;> rfl
@[simp] theorem hostFirstLoad_tail (s : State) :
    (hostFirstLoad s).tail = s.tail := by
  unfold hostFirstLoad; dsimp only; split <;> rfl
@[simp] theorem hostFirstLoad_lastSeen (s : State) :
    (hostFirstLoad s).lastSeen = s.lastSeen := by
  unfold hostFirstLoad; dsimp only; split <;> rfl
@[simp] theorem hostFirstLoad_snap (s : State) :
    (hostFirstLoad s).snap = s.snap := by
  unfold hostFirstLoad; dsimp only; split <;> rfl
@[simp] theorem hostFirstLoad_events (s : State) :
    (hostFirstLoad s).events = s.events := by
  unfold hostFirstLoad; dsimp only; split <;> rfl

@[simp] theorem hostFieldLoad_state (pick : Nat) (c : Copy) (s : State) :
    (hostFieldLoad pick c s).state = s.state := rfl
@[simp] theorem hostFieldLoad_tDl (pick : Nat) (c : Copy) (s : State) :
    (hostFieldLoad pick c s).tDl = s.tDl := rfl
@[simp] theorem hostFieldLoad_txbuf (pick : Nat) (c : Copy) (s : State) :
    (hostFieldLoad pick c s).txbuf = s.txbuf := rfl
@[simp] theorem hostFieldLoad_mem (pick : Nat) (c : Copy) (s : State) :
    (hostFieldLoad pick c s).mem = s.mem := rfl
@[simp] theorem hostFieldLoad_rx (pick : Nat) (c : Copy) (s : State) :
    (hostFieldLoad pick c s).rx = s.rx := rfl
@[simp] theorem hostFieldLoad_tx (pick : Nat) (c : Copy) (s : State) :
    (hostFieldLoad pick c s).tx = s.tx := rfl
@[simp] theorem hostFieldLoad_echoed (pick : Nat) (c : Copy) (s : State) :
    (hostFieldLoad pick c s).echoed = s.echoed := rfl
@[simp] theorem hostFieldLoad_cyc (pick : Nat) (c : Copy) (s : State) :
    (hostFieldLoad pick c s).cyc = s.cyc := rfl
@[simp] theorem hostFieldLoad_params (pick : Nat) (c : Copy) (s : State) :
    (hostFieldLoad pick c s).params = s.params := rfl
@[simp] theorem hostFieldLoad_agenda (pick : Nat) (c : Copy) (s : State) :
    (hostFieldLoad pick c s).agenda = s.agenda := rfl
@[simp] theorem hostFieldLoad_plans (pick : Nat) (c : Copy) (s : State) :
    (hostFieldLoad pick c s).plans = s.plans := rfl
@[simp] theorem hostFieldLoad_freeCtr (pick : Nat) (c : Copy) (s : State) :
    (hostFieldLoad pick c s).freeCtr = s.freeCtr := rfl
@[simp] theorem hostFieldLoad_slots (pick : Nat) (c : Copy) (s : State) :
    (hostFieldLoad pick c s).slots = s.slots := rfl
@[simp] theorem hostFieldLoad_head (pick : Nat) (c : Copy) (s : State) :
    (hostFieldLoad pick c s).head = s.head := rfl
@[simp] theorem hostFieldLoad_tail (pick : Nat) (c : Copy) (s : State) :
    (hostFieldLoad pick c s).tail = s.tail := rfl
@[simp] theorem hostFieldLoad_lastSeen (pick : Nat) (c : Copy) (s : State) :
    (hostFieldLoad pick c s).lastSeen = s.lastSeen := rfl
@[simp] theorem hostFieldLoad_snap (pick : Nat) (c : Copy) (s : State) :
    (hostFieldLoad pick c s).snap = s.snap := rfl
@[simp] theorem hostFieldLoad_events (pick : Nat) (c : Copy) (s : State) :
    (hostFieldLoad pick c s).events = s.events := rfl
@[simp] theorem hostFieldLoad_ret (pick : Nat) (c : Copy) (s : State) :
    (hostFieldLoad pick c s).ret = s.ret := rfl

@[simp] theorem hostLastLoad_state (c : Copy) (s : State) :
    (hostLastLoad c s).state = s.state := by
  unfold hostLastLoad; dsimp only; split <;> rfl
@[simp] theorem hostLastLoad_tDl (c : Copy) (s : State) :
    (hostLastLoad c s).tDl = s.tDl := by
  unfold hostLastLoad; dsimp only; split <;> rfl
@[simp] theorem hostLastLoad_txbuf (c : Copy) (s : State) :
    (hostLastLoad c s).txbuf = s.txbuf := by
  unfold hostLastLoad; dsimp only; split <;> rfl
@[simp] theorem hostLastLoad_mem (c : Copy) (s : State) :
    (hostLastLoad c s).mem = s.mem := by
  unfold hostLastLoad; dsimp only; split <;> rfl
@[simp] theorem hostLastLoad_rx (c : Copy) (s : State) :
    (hostLastLoad c s).rx = s.rx := by
  unfold hostLastLoad; dsimp only; split <;> rfl
@[simp] theorem hostLastLoad_tx (c : Copy) (s : State) :
    (hostLastLoad c s).tx = s.tx := by
  unfold hostLastLoad; dsimp only; split <;> rfl
@[simp] theorem hostLastLoad_echoed (c : Copy) (s : State) :
    (hostLastLoad c s).echoed = s.echoed := by
  unfold hostLastLoad; dsimp only; split <;> rfl
@[simp] theorem hostLastLoad_cyc (c : Copy) (s : State) :
    (hostLastLoad c s).cyc = s.cyc := by
  unfold hostLastLoad; dsimp only; split <;> rfl
@[simp] theorem hostLastLoad_params (c : Copy) (s : State) :
    (hostLastLoad c s).params = s.params := by
  unfold hostLastLoad; dsimp only; split <;> rfl
@[simp] theorem hostLastLoad_agenda (c : Copy) (s : State) :
    (hostLastLoad c s).agenda = s.agenda := by
  unfold hostLastLoad; dsimp only; split <;> rfl
@[simp] theorem hostLastLoad_plans (c : Copy) (s : State) :
    (hostLastLoad c s).plans = s.plans := by
  unfold hostLastLoad; dsimp only; split <;> rfl
@[simp] theorem hostLastLoad_freeCtr (c : Copy) (s : State) :
    (hostLastLoad c s).freeCtr = s.freeCtr := by
  unfold hostLastLoad; dsimp only; split <;> rfl
@[simp] theorem hostLastLoad_slots (c : Copy) (s : State) :
    (hostLastLoad c s).slots = s.slots := by
  unfold hostLastLoad; dsimp only; split <;> rfl
@[simp] theorem hostLastLoad_head (c : Copy) (s : State) :
    (hostLastLoad c s).head = s.head := by
  unfold hostLastLoad; dsimp only; split <;> rfl
@[simp] theorem hostLastLoad_tail (c : Copy) (s : State) :
    (hostLastLoad c s).tail = s.tail := by
  unfold hostLastLoad; dsimp only; split <;> rfl

@[simp] theorem hostLoad_state (pick : Nat) (s : State) :
    (hostLoad pick s).state = s.state := by
  unfold hostLoad; split <;> [simp; (split <;> simp)]
@[simp] theorem hostLoad_tDl (pick : Nat) (s : State) :
    (hostLoad pick s).tDl = s.tDl := by
  unfold hostLoad; split <;> [simp; (split <;> simp)]
@[simp] theorem hostLoad_txbuf (pick : Nat) (s : State) :
    (hostLoad pick s).txbuf = s.txbuf := by
  unfold hostLoad; split <;> [simp; (split <;> simp)]
@[simp] theorem hostLoad_mem (pick : Nat) (s : State) :
    (hostLoad pick s).mem = s.mem := by
  unfold hostLoad; split <;> [simp; (split <;> simp)]
@[simp] theorem hostLoad_rx (pick : Nat) (s : State) :
    (hostLoad pick s).rx = s.rx := by
  unfold hostLoad; split <;> [simp; (split <;> simp)]
@[simp] theorem hostLoad_tx (pick : Nat) (s : State) :
    (hostLoad pick s).tx = s.tx := by
  unfold hostLoad; split <;> [simp; (split <;> simp)]
@[simp] theorem hostLoad_echoed (pick : Nat) (s : State) :
    (hostLoad pick s).echoed = s.echoed := by
  unfold hostLoad; split <;> [simp; (split <;> simp)]
@[simp] theorem hostLoad_cyc (pick : Nat) (s : State) :
    (hostLoad pick s).cyc = s.cyc := by
  unfold hostLoad; split <;> [simp; (split <;> simp)]
@[simp] theorem hostLoad_params (pick : Nat) (s : State) :
    (hostLoad pick s).params = s.params := by
  unfold hostLoad; split <;> [simp; (split <;> simp)]
@[simp] theorem hostLoad_agenda (pick : Nat) (s : State) :
    (hostLoad pick s).agenda = s.agenda := by
  unfold hostLoad; split <;> [simp; (split <;> simp)]
@[simp] theorem hostLoad_plans (pick : Nat) (s : State) :
    (hostLoad pick s).plans = s.plans := by
  unfold hostLoad; split <;> [simp; (split <;> simp)]
@[simp] theorem hostLoad_freeCtr (pick : Nat) (s : State) :
    (hostLoad pick s).freeCtr = s.freeCtr := by
  unfold hostLoad; split <;> [simp; (split <;> simp)]
@[simp] theorem hostLoad_slots (pick : Nat) (s : State) :
    (hostLoad pick s).slots = s.slots := by
  unfold hostLoad; split <;> [simp; (split <;> simp)]
@[simp] theorem hostLoad_head (pick : Nat) (s : State) :
    (hostLoad pick s).head = s.head := by
  unfold hostLoad; split <;> [simp; (split <;> simp)]
@[simp] theorem hostLoad_tail (pick : Nat) (s : State) :
    (hostLoad pick s).tail = s.tail := by
  unfold hostLoad; split <;> [simp; (split <;> simp)]

@[simp] theorem hostMove_state (m : HostMove) (s : State) :
    (hostMove m s).state = s.state := by
  cases m <;> simp [hostMove]
@[simp] theorem hostMove_tDl (m : HostMove) (s : State) :
    (hostMove m s).tDl = s.tDl := by
  cases m <;> simp [hostMove]
@[simp] theorem hostMove_txbuf (m : HostMove) (s : State) :
    (hostMove m s).txbuf = s.txbuf := by
  cases m <;> simp [hostMove]
@[simp] theorem hostMove_mem (m : HostMove) (s : State) :
    (hostMove m s).mem = s.mem := by
  cases m <;> simp [hostMove]
@[simp] theorem hostMove_rx (m : HostMove) (s : State) :
    (hostMove m s).rx = s.rx := by
  cases m <;> simp [hostMove]
@[simp] theorem hostMove_tx (m : HostMove) (s : State) :
    (hostMove m s).tx = s.tx := by
  cases m <;> simp [hostMove]
@[simp] theorem hostMove_echoed (m : HostMove) (s : State) :
    (hostMove m s).echoed = s.echoed := by
  cases m <;> simp [hostMove]
@[simp] theorem hostMove_cyc (m : HostMove) (s : State) :
    (hostMove m s).cyc = s.cyc := by
  cases m <;> simp [hostMove]
@[simp] theorem hostMove_params (m : HostMove) (s : State) :
    (hostMove m s).params = s.params := by
  cases m <;> simp [hostMove]
@[simp] theorem hostMove_agenda (m : HostMove) (s : State) :
    (hostMove m s).agenda = s.agenda := by
  cases m <;> simp [hostMove]
@[simp] theorem hostMove_plans (m : HostMove) (s : State) :
    (hostMove m s).plans = s.plans := by
  cases m <;> simp [hostMove]
@[simp] theorem hostMove_freeCtr (m : HostMove) (s : State) :
    (hostMove m s).freeCtr = s.freeCtr := by
  cases m <;> simp [hostMove]

@[simp] theorem hostLoads_state (n : Nat) (s : State) :
    (hostLoads n s).state = s.state := by
  induction n generalizing s with
  | zero => rfl
  | succ n ih => rw [hostLoads, ih, hostLoad_state]
@[simp] theorem hostLoads_tDl (n : Nat) (s : State) :
    (hostLoads n s).tDl = s.tDl := by
  induction n generalizing s with
  | zero => rfl
  | succ n ih => rw [hostLoads, ih, hostLoad_tDl]
@[simp] theorem hostLoads_txbuf (n : Nat) (s : State) :
    (hostLoads n s).txbuf = s.txbuf := by
  induction n generalizing s with
  | zero => rfl
  | succ n ih => rw [hostLoads, ih, hostLoad_txbuf]
@[simp] theorem hostLoads_mem (n : Nat) (s : State) :
    (hostLoads n s).mem = s.mem := by
  induction n generalizing s with
  | zero => rfl
  | succ n ih => rw [hostLoads, ih, hostLoad_mem]
@[simp] theorem hostLoads_rx (n : Nat) (s : State) :
    (hostLoads n s).rx = s.rx := by
  induction n generalizing s with
  | zero => rfl
  | succ n ih => rw [hostLoads, ih, hostLoad_rx]
@[simp] theorem hostLoads_tx (n : Nat) (s : State) :
    (hostLoads n s).tx = s.tx := by
  induction n generalizing s with
  | zero => rfl
  | succ n ih => rw [hostLoads, ih, hostLoad_tx]
@[simp] theorem hostLoads_echoed (n : Nat) (s : State) :
    (hostLoads n s).echoed = s.echoed := by
  induction n generalizing s with
  | zero => rfl
  | succ n ih => rw [hostLoads, ih, hostLoad_echoed]
@[simp] theorem hostLoads_cyc (n : Nat) (s : State) :
    (hostLoads n s).cyc = s.cyc := by
  induction n generalizing s with
  | zero => rfl
  | succ n ih => rw [hostLoads, ih, hostLoad_cyc]
@[simp] theorem hostLoads_params (n : Nat) (s : State) :
    (hostLoads n s).params = s.params := by
  induction n generalizing s with
  | zero => rfl
  | succ n ih => rw [hostLoads, ih, hostLoad_params]
@[simp] theorem hostLoads_agenda (n : Nat) (s : State) :
    (hostLoads n s).agenda = s.agenda := by
  induction n generalizing s with
  | zero => rfl
  | succ n ih => rw [hostLoads, ih, hostLoad_agenda]
@[simp] theorem hostLoads_plans (n : Nat) (s : State) :
    (hostLoads n s).plans = s.plans := by
  induction n generalizing s with
  | zero => rfl
  | succ n ih => rw [hostLoads, ih, hostLoad_plans]
@[simp] theorem hostLoads_freeCtr (n : Nat) (s : State) :
    (hostLoads n s).freeCtr = s.freeCtr := by
  induction n generalizing s with
  | zero => rfl
  | succ n ih => rw [hostLoads, ih, hostLoad_freeCtr]
@[simp] theorem hostLoads_slots (n : Nat) (s : State) :
    (hostLoads n s).slots = s.slots := by
  induction n generalizing s with
  | zero => rfl
  | succ n ih => rw [hostLoads, ih, hostLoad_slots]
@[simp] theorem hostLoads_head (n : Nat) (s : State) :
    (hostLoads n s).head = s.head := by
  induction n generalizing s with
  | zero => rfl
  | succ n ih => rw [hostLoads, ih, hostLoad_head]
@[simp] theorem hostLoads_tail (n : Nat) (s : State) :
    (hostLoads n s).tail = s.tail := by
  induction n generalizing s with
  | zero => rfl
  | succ n ih => rw [hostLoads, ih, hostLoad_tail]

@[simp] theorem finishPoll_state (s : State) :
    (finishPoll s).state = s.state := by
  unfold finishPoll; split <;> simp
@[simp] theorem finishPoll_tDl (s : State) :
    (finishPoll s).tDl = s.tDl := by
  unfold finishPoll; split <;> simp
@[simp] theorem finishPoll_txbuf (s : State) :
    (finishPoll s).txbuf = s.txbuf := by
  unfold finishPoll; split <;> simp
@[simp] theorem finishPoll_mem (s : State) :
    (finishPoll s).mem = s.mem := by
  unfold finishPoll; split <;> simp
@[simp] theorem finishPoll_rx (s : State) :
    (finishPoll s).rx = s.rx := by
  unfold finishPoll; split <;> simp
@[simp] theorem finishPoll_tx (s : State) :
    (finishPoll s).tx = s.tx := by
  unfold finishPoll; split <;> simp
@[simp] theorem finishPoll_echoed (s : State) :
    (finishPoll s).echoed = s.echoed := by
  unfold finishPoll; split <;> simp
@[simp] theorem finishPoll_cyc (s : State) :
    (finishPoll s).cyc = s.cyc := by
  unfold finishPoll; split <;> simp
@[simp] theorem finishPoll_params (s : State) :
    (finishPoll s).params = s.params := by
  unfold finishPoll; split <;> simp
@[simp] theorem finishPoll_agenda (s : State) :
    (finishPoll s).agenda = s.agenda := by
  unfold finishPoll; split <;> simp
@[simp] theorem finishPoll_plans (s : State) :
    (finishPoll s).plans = s.plans := by
  unfold finishPoll; split <;> simp
@[simp] theorem finishPoll_freeCtr (s : State) :
    (finishPoll s).freeCtr = s.freeCtr := by
  unfold finishPoll; split <;> simp
@[simp] theorem finishPoll_slots (s : State) :
    (finishPoll s).slots = s.slots := by
  unfold finishPoll; split <;> simp
@[simp] theorem finishPoll_head (s : State) :
    (finishPoll s).head = s.head := by
  unfold finishPoll; split <;> simp
@[simp] theorem finishPoll_tail (s : State) :
    (finishPoll s).tail = s.tail := by
  unfold finishPoll; split <;> simp

@[simp] theorem hostSnapshot_state (s : State) :
    (hostSnapshot s).state = s.state := by
  unfold hostSnapshot; split <;> simp
@[simp] theorem hostSnapshot_tDl (s : State) :
    (hostSnapshot s).tDl = s.tDl := by
  unfold hostSnapshot; split <;> simp
@[simp] theorem hostSnapshot_txbuf (s : State) :
    (hostSnapshot s).txbuf = s.txbuf := by
  unfold hostSnapshot; split <;> simp
@[simp] theorem hostSnapshot_mem (s : State) :
    (hostSnapshot s).mem = s.mem := by
  unfold hostSnapshot; split <;> simp
@[simp] theorem hostSnapshot_rx (s : State) :
    (hostSnapshot s).rx = s.rx := by
  unfold hostSnapshot; split <;> simp
@[simp] theorem hostSnapshot_tx (s : State) :
    (hostSnapshot s).tx = s.tx := by
  unfold hostSnapshot; split <;> simp
@[simp] theorem hostSnapshot_echoed (s : State) :
    (hostSnapshot s).echoed = s.echoed := by
  unfold hostSnapshot; split <;> simp
@[simp] theorem hostSnapshot_cyc (s : State) :
    (hostSnapshot s).cyc = s.cyc := by
  unfold hostSnapshot; split <;> simp
@[simp] theorem hostSnapshot_params (s : State) :
    (hostSnapshot s).params = s.params := by
  unfold hostSnapshot; split <;> simp
@[simp] theorem hostSnapshot_agenda (s : State) :
    (hostSnapshot s).agenda = s.agenda := by
  unfold hostSnapshot; split <;> simp
@[simp] theorem hostSnapshot_plans (s : State) :
    (hostSnapshot s).plans = s.plans := by
  unfold hostSnapshot; split <;> simp
@[simp] theorem hostSnapshot_freeCtr (s : State) :
    (hostSnapshot s).freeCtr = s.freeCtr := by
  unfold hostSnapshot; split <;> simp
@[simp] theorem hostSnapshot_slots (s : State) :
    (hostSnapshot s).slots = s.slots := by
  unfold hostSnapshot; split <;> simp
@[simp] theorem hostSnapshot_head (s : State) :
    (hostSnapshot s).head = s.head := by
  unfold hostSnapshot; split <;> simp
@[simp] theorem hostSnapshot_tail (s : State) :
    (hostSnapshot s).tail = s.tail := by
  unfold hostSnapshot; split <;> simp

/-! ### The block's fields -/

theorem loadField_congr {s t : State} (hm : t.mem = s.mem) (hp : t.params = s.params)
    (f : Field) : loadField t f = loadField s f := by
  simp only [loadField, memRead, hm, hp]

@[simp] theorem loadField_hostMove (m : HostMove) (s : State) (f : Field) :
    loadField (hostMove m s) f = loadField s f := loadField_congr (by simp) (by simp) f

@[simp] theorem loadField_pushItem (item : TelemetryItem) (s : State) (f : Field) :
    loadField (pushItem item s) f = loadField s f := loadField_congr (by simp) (by simp) f

@[simp] theorem loadField_afterPop (s : State) (f : Field) :
    loadField (afterPop s) f = loadField s f := loadField_congr (by simp) (by simp) f

@[simp] theorem loadField_hostLoad (pick : Nat) (s : State) (f : Field) :
    loadField (hostLoad pick s) f = loadField s f := loadField_congr (by simp) (by simp) f

@[simp] theorem loadField_hostSnapshot (s : State) (f : Field) :
    loadField (hostSnapshot s) f = loadField s f := loadField_congr (by simp) (by simp) f

end Sys2Proof.Machine
end

