-- ==== Sys2Proof/Laws/Memory.lean ====
section
/-! SUPPORT. The laws of shared memory: every operation keeps the canonical form, a read after
a write gives what was written, and a write leaves every other byte alone. The read laws hold
of every list of cells, canonical or not. -/

namespace Sys2Proof.Machine

open Sys2Proof

/-! ### Single bytes -/

theorem Memory.read_erase (p : Nat → Bool) (m : List Host.Cell) (b : Nat) :
    Memory.read (Memory.erase p m) b = if p b then Memory.unlisted else Memory.read m b := by
  induction m with
  | nil => simp [Memory.erase, Memory.read]
  | cons c m ih =>
    simp only [Memory.erase] at ih
    by_cases hc : p c.1 <;> by_cases hb : c.1 = b <;>
      simp_all [Memory.erase, Memory.read]

theorem Memory.read_insert (a : Nat) (v : Byte) (m : List Host.Cell) (b : Nat)
    (h : ∀ c ∈ m, c.1 ≠ a) :
    Memory.read (Memory.insert a v m) b = if b = a then v else Memory.read m b := by
  induction m with
  | nil =>
    simp only [Memory.insert, Memory.read]
    exact if_congr eq_comm rfl rfl
  | cons c m ih =>
    have hc : c.1 ≠ a := h c (by simp)
    have ih := ih fun d hd => h d (by simp [hd])
    by_cases hlt : a < c.1
    · simp only [Memory.insert, hlt, ↓reduceIte, Memory.read]
      exact if_congr eq_comm rfl rfl
    · simp only [Memory.insert, hlt, ↓reduceIte, Memory.read, ih]
      by_cases hb : b = a
      · subst hb; simp [hc]
      · simp only [if_neg hb]

theorem Memory.read_write (m : List Host.Cell) (a : Nat) (v : Byte) (b : Nat) :
    Memory.read (Memory.write m a v) b = if b = a then v else Memory.read m b := by
  unfold Memory.write
  by_cases hv : v = Memory.unlisted
  · by_cases hb : b = a <;> simp [hv, Memory.read_erase, hb]
  · simp only [hv, ↓reduceIte]
    rw [Memory.read_insert _ _ _ _ (by intro c hc; simpa [Memory.erase] using (List.mem_filter.1 hc).2)]
    by_cases hb : b = a <;> simp [Memory.read_erase, hb]

/-! ### The canonical form -/

theorem Memory.wf_erase (p : Nat → Bool) (m : List Host.Cell) (h : Memory.wf m = true) :
    Memory.wf (Memory.erase p m) = true := by
  induction m with
  | nil => rfl
  | cons c m ih =>
    simp only [Memory.wf, Bool.and_eq_true, List.all_eq_true, decide_eq_true_eq] at h
    have hm := ih h.2
    simp only [Memory.erase] at hm ⊢
    by_cases hc : p c.1
    · simpa [hc] using hm
    · simp only [hc, Bool.not_false, List.filter_cons_of_pos, Memory.wf, Bool.and_eq_true,
        List.all_eq_true, decide_eq_true_eq]
      exact ⟨⟨h.1.1, fun d hd => h.1.2 d (List.mem_filter.1 hd).1⟩, hm⟩

theorem Memory.mem_insert (a : Nat) (v : Byte) (m : List Host.Cell) (d : Host.Cell) :
    d ∈ Memory.insert a v m ↔ d = (a, v) ∨ d ∈ m := by
  induction m with
  | nil => simp [Memory.insert]
  | cons c m ih =>
    by_cases hlt : a < c.1
    · simp [Memory.insert, hlt]
    · simp only [Memory.insert, hlt, ↓reduceIte, List.mem_cons, ih]
      tauto

theorem Memory.wf_insert (a : Nat) (v : Byte) (m : List Host.Cell) (h : Memory.wf m = true)
    (hv : v ≠ Memory.unlisted) (ha : ∀ c ∈ m, c.1 ≠ a) :
    Memory.wf (Memory.insert a v m) = true := by
  induction m with
  | nil => simp [Memory.insert, Memory.wf, hv]
  | cons c m ih =>
    have hcons := h
    simp only [Memory.wf, Bool.and_eq_true, List.all_eq_true, decide_eq_true_eq] at h
    have hc : c.1 ≠ a := ha c (by simp)
    by_cases hlt : a < c.1
    · simp only [Memory.insert, hlt, ↓reduceIte]
      rw [Memory.wf, hcons]
      simp only [Bool.and_true, Bool.and_eq_true, bne_iff_ne, ne_eq, List.all_eq_true,
        decide_eq_true_eq]
      refine ⟨hv, fun d hd => ?_⟩
      rcases List.mem_cons.1 hd with rfl | hd
      · exact hlt
      · exact Nat.lt_trans hlt (h.1.2 d hd)
    · simp only [Memory.insert, hlt, ↓reduceIte, Memory.wf, Bool.and_eq_true, List.all_eq_true,
        decide_eq_true_eq]
      refine ⟨⟨h.1.1, fun d hd => ?_⟩, ih h.2 fun d hd => ha d (by simp [hd])⟩
      rcases (Memory.mem_insert a v m d).1 hd with rfl | hd
      · simp only; omega
      · exact h.1.2 d hd

theorem Memory.wf_write (m : List Host.Cell) (a : Nat) (v : Byte) (h : Memory.wf m = true) :
    Memory.wf (Memory.write m a v) = true := by
  have he := Memory.wf_erase (fun b => decide (b = a)) m h
  unfold Memory.write
  by_cases hv : v = Memory.unlisted
  · simpa [hv] using he
  · simp only [hv, ↓reduceIte]
    exact Memory.wf_insert _ _ _ he hv fun c hc => by
      simpa [Memory.erase] using (List.mem_filter.1 hc).2

theorem Memory.wf_writeLE (n : Nat) (m : List Host.Cell) (a v : Nat)
    (h : Memory.wf m = true) : Memory.wf (Memory.writeLE m a n v) = true := by
  induction n generalizing m a v with
  | zero => exact h
  | succ n ih => exact ih _ _ _ (Memory.wf_write _ _ _ h)

/-! ### Accesses of several bytes -/

/-- A byte outside the bytes stored reads as before. -/
theorem Memory.read_writeLE_outside (n : Nat) (m : List Host.Cell) (a v b : Nat)
    (h : b < a ∨ a + n ≤ b) : Memory.read (Memory.writeLE m a n v) b = Memory.read m b := by
  induction n generalizing m a v with
  | zero => rfl
  | succ n ih =>
    rw [Memory.writeLE, ih _ _ _ (by omega), Memory.read_write, if_neg (by omega)]

/-- An access reads only its own bytes. -/
theorem Memory.readLE_congr (n : Nat) (m m' : List Host.Cell) (a : Nat)
    (h : ∀ b, a ≤ b → b < a + n → Memory.read m b = Memory.read m' b) :
    Memory.readLE m a n = Memory.readLE m' a n := by
  induction n generalizing a with
  | zero => rfl
  | succ n ih =>
    rw [Memory.readLE, Memory.readLE, h a (by omega) (by omega),
      ih (a + 1) fun b h1 h2 => h b (by omega) (by omega)]

/-- A load disjoint from a store gives what it gave before. -/
theorem Memory.readLE_writeLE_disjoint (m : List Host.Cell) (a n v b k : Nat)
    (h : b + k ≤ a ∨ a + n ≤ b) :
    Memory.readLE (Memory.writeLE m a n v) b k = Memory.readLE m b k :=
  Memory.readLE_congr k _ _ b fun c h1 h2 =>
    Memory.read_writeLE_outside n m a v c (by omega)

/-- A load of the bytes just stored gives the value, reduced to its width. -/
theorem Memory.readLE_writeLE_same (n : Nat) (m : List Host.Cell) (a v : Nat) :
    Memory.readLE (Memory.writeLE m a n v) a n = v % 256 ^ n := by
  induction n generalizing m a v with
  | zero => simp [Memory.readLE, Nat.mod_one]
  | succ n ih =>
    rw [Memory.readLE, Memory.writeLE, ih,
      Memory.read_writeLE_outside n _ _ _ _ (by omega), Memory.read_write, if_pos rfl,
      BitVec.toNat_ofNat, pow_succ' 256 n]
    exact (Nat.mod_mul (a := 256) (b := 256 ^ n) (x := v)).symm

theorem Memory.readLE_lt (n : Nat) (m : List Host.Cell) (a : Nat) :
    Memory.readLE m a n < 256 ^ n := by
  induction n generalizing a with
  | zero => simp [Memory.readLE]
  | succ n ih =>
    have h1 := ih (a + 1)
    have h2 := (Memory.read m a).isLt
    rw [Memory.readLE, pow_succ']
    omega

end Sys2Proof.Machine
end

