-- ==== Sys2Proof/Laws/Block.lean ====
section
/-! SUPPORT. The fields of the shared channel block: they do not overlap, a load gives the last
store, and what a whole publish does to the block whatever its plan (44_shared_block.md R180 to
R185). -/

namespace Sys2Proof.Machine

open Sys2Proof

/-! ### Fields -/

/-- Two different fields share no byte (10_state.md R15). -/
theorem Field.disjoint {f g : Field} (h : f ≠ g) :
    g.offset + g.width ≤ f.offset ∨ f.offset + f.width ≤ g.offset := by
  cases f <;> cases g <;> simp [Field.offset, Field.width] at h ⊢ <;> omega

/-- Every field lies in the block and none covers `reserved` (10_state.md R15, R20). -/
theorem Field.bounds (f : Field) :
    (f.offset + f.width ≤ reservedOffset ∨ reservedOffset < f.offset) ∧
      f.offset + f.width ≤ Config.scbSize := by
  cases f <;> simp [Field.offset, Field.width, reservedOffset, Config.scbSize]; omega

theorem loadField_storeField_same (f : Field) (v : Nat) (s : State) :
    loadField (storeField f v s) f = v % 256 ^ f.width :=
  Memory.readLE_writeLE_same _ _ _ _

theorem loadField_storeField_ne {f g : Field} (h : f ≠ g) (v : Nat) (s : State) :
    loadField (storeField f v s) g = loadField s g := by
  have hd := Field.disjoint h
  exact Memory.readLE_writeLE_disjoint _ _ _ _ _ _ (by simp only [storeField_params]; omega)

theorem loadField_lt (s : State) (f : Field) : loadField s f < 256 ^ f.width :=
  Memory.readLE_lt _ _ _

/-- Not a byte of a field: outside the block, or `reserved`. -/
def offField (s : State) (a : Nat) : Prop :=
  inBlock s a = false ∨ a = s.params.scbBase + reservedOffset

theorem read_storeField_offField {s : State} {a : Nat} (h : offField s a) (f : Field)
    (v : Nat) : Memory.read (storeField f v s).mem a = Memory.read s.mem a := by
  have hb := Field.bounds f
  refine Memory.read_writeLE_outside _ _ _ _ _ ?_
  rcases h with h | h
  · simp only [inBlock, Bool.and_eq_false_iff, decide_eq_false_iff_not] at h; omega
  · omega

theorem offField_congr {s t : State} (h : t.params = s.params) {a : Nat} :
    offField t a ↔ offField s a := by
  simp only [offField, inBlock, h]

/-! ### Field stores with nothing between them -/

@[simp] theorem storeAll_cons (w : Field × Nat) (ws : List (Field × Nat)) (s : State) :
    storeAll (w :: ws) s = storeAll ws (storeField w.1 w.2 s) := rfl

theorem loadField_storeAll_generation (ws : List (Field × Nat)) (s : State)
    (h : ∀ w ∈ ws, w.1 ≠ .generation) :
    loadField (storeAll ws s) .generation = loadField s .generation := by
  induction ws generalizing s with
  | nil => rfl
  | cons w ws ih =>
    rw [storeAll_cons, ih _ fun x hx => h x (by simp [hx]),
      loadField_storeField_ne (h w (by simp))]

/-! ### PUBLISH

What a run of the events of a publish does, for any plan and any stores to distinct fields
other than `generation`. -/

/-- The whole effect of a publish on the block, and what it leaves alone. -/
structure PublishSpec (ws : List (Field × Nat)) (s t : State) : Prop where
  stored : ∀ w ∈ ws, loadField t w.1 = w.2 % 256 ^ w.1.width
  kept : ∀ f, f ≠ .generation → f ∉ ws.map Prod.fst → loadField t f = loadField s f
  generation : loadField t .generation = (loadField s .generation + 1) % 2 ^ 32
  offField : ∀ a, offField s a → Memory.read t.mem a = Memory.read s.mem a
  wf : Memory.wf s.mem = true → Memory.wf t.mem = true
  state : t.state = s.state
  tDl : t.tDl = s.tDl
  txbuf : t.txbuf = s.txbuf
  rx : t.rx = s.rx
  tx : t.tx = s.tx
  echoed : t.echoed = s.echoed
  cyc : t.cyc = s.cyc
  params : t.params = s.params
  agenda : t.agenda = s.agenda
  plans : t.plans = s.plans
  freeCtr : t.freeCtr = s.freeCtr

theorem bumpGeneration_spec (s : State) : PublishSpec [] s (bumpGeneration s) where
  stored := by simp
  kept := fun f hf _ => loadField_storeField_ne (Ne.symm hf) _ _
  generation := by
    rw [bumpGeneration, loadField_storeField_same]
    exact Nat.mod_mod_of_dvd _ (by norm_num [Field.width])
  offField := fun _ ha => read_storeField_offField ha _ _
  wf := Memory.wf_writeLE _ _ _ _
  state := rfl
  tDl := rfl
  txbuf := rfl
  rx := rfl
  tx := rfl
  echoed := rfl
  cyc := rfl
  params := rfl
  agenda := rfl
  plans := rfl
  freeCtr := rfl

/-- One field store before the rest. -/
theorem PublishSpec.store {w : Field × Nat} {ws : List (Field × Nat)} {s t : State}
    (hg : w.1 ≠ .generation) (hw : w.1 ∉ ws.map Prod.fst)
    (h : PublishSpec ws (storeField w.1 w.2 s) t) : PublishSpec (w :: ws) s t where
  stored := by
    intro x hx
    rcases List.mem_cons.1 hx with rfl | hx
    · rw [h.kept _ hg hw, loadField_storeField_same]
    · exact h.stored x hx
  kept := by
    intro f hf hn
    simp only [List.map_cons, List.mem_cons, not_or] at hn
    rw [h.kept f hf hn.2, loadField_storeField_ne (Ne.symm hn.1)]
  generation := by rw [h.generation, loadField_storeField_ne hg]
  offField := fun a ha => by
    rw [h.offField a ((offField_congr rfl).2 ha), read_storeField_offField ha]
  wf := fun hs => h.wf (Memory.wf_writeLE _ _ _ _ hs)
  state := h.state
  tDl := h.tDl
  txbuf := h.txbuf
  rx := h.rx
  tx := h.tx
  echoed := h.echoed
  cyc := h.cyc
  params := h.params
  agenda := h.agenda
  plans := h.plans
  freeCtr := h.freeCtr

/-- A step of HOST before the rest. -/
theorem PublishSpec.host {ws : List (Field × Nat)} {s t : State} (m : HostMove)
    (h : PublishSpec ws (hostMove m s) t) : PublishSpec ws s t where
  stored := h.stored
  kept := fun f hf hn => by rw [h.kept f hf hn, loadField_hostMove]
  generation := by rw [h.generation, loadField_hostMove]
  offField := fun a ha => by
    rw [h.offField a ((offField_congr (by simp)).2 ha), hostMove_mem]
  wf := fun hs => h.wf (by simpa using hs)
  state := by rw [h.state, hostMove_state]
  tDl := by rw [h.tDl, hostMove_tDl]
  txbuf := by rw [h.txbuf, hostMove_txbuf]
  rx := by rw [h.rx, hostMove_rx]
  tx := by rw [h.tx, hostMove_tx]
  echoed := by rw [h.echoed, hostMove_echoed]
  cyc := by rw [h.cyc, hostMove_cyc]
  params := by rw [h.params, hostMove_params]
  agenda := by rw [h.agenda, hostMove_agenda]
  plans := by rw [h.plans, hostMove_plans]
  freeCtr := by rw [h.freeCtr, hostMove_freeCtr]

/-- The stores may be named in any order. -/
theorem PublishSpec.perm {ws ws' : List (Field × Nat)} {s t : State} (hp : ws'.Perm ws)
    (h : PublishSpec ws s t) : PublishSpec ws' s t :=
  { h with
    stored := fun w hw => h.stored w (hp.mem_iff.1 hw)
    kept := fun f hf hn => h.kept f hf fun hm => hn ((hp.map _).mem_iff.2 hm) }

theorem storeAll_bump_spec (ws : List (Field × Nat)) (s : State)
    (hg : ∀ w ∈ ws, w.1 ≠ .generation) (hn : (ws.map Prod.fst).Nodup) :
    PublishSpec ws s (bumpGeneration (storeAll ws s)) := by
  induction ws generalizing s with
  | nil => exact bumpGeneration_spec s
  | cons w ws ih =>
    simp only [List.map_cons, List.nodup_cons] at hn
    exact .store (hg w (by simp)) hn.1 (ih _ (fun x hx => hg x (by simp [hx])) hn.2)

/-- A publish under any plan (44_shared_block.md R185). -/
theorem runPublish_spec (ps : List PublishMove) (ws : List (Field × Nat)) (s : State)
    (hg : ∀ w ∈ ws, w.1 ≠ .generation) (hn : (ws.map Prod.fst).Nodup) :
    PublishSpec ws s (runPublish ps ws s) := by
  induction ps generalizing ws s with
  | nil => exact storeAll_bump_spec ws s hg hn
  | cons p ps ih =>
    cases p with
    | host m => exact .host m (ih _ _ hg hn)
    | store pick =>
      cases ws with
      | nil => exact bumpGeneration_spec s
      | cons w ws =>
        have hk : pick % (ws.length + 1) < (w :: ws).length := Nat.mod_lt _ (by simp)
        have hperm := List.getElem_cons_eraseIdx_perm hk
        have hx : (w :: ws).getD (pick % (ws.length + 1)) w =
            (w :: ws)[pick % (ws.length + 1)] := List.getD_eq_getElem _ _ hk
        have hn' := (hperm.map Prod.fst).nodup_iff.2 hn
        simp only [List.map_cons, List.nodup_cons] at hn'
        rw [runPublish]
        rw [hx]
        refine .perm hperm.symm (.store (hg _ (List.getElem_mem hk)) hn'.1 ?_)
        exact ih _ _ (fun y hy => hg y (List.mem_of_mem_eraseIdx hy)) hn'.2

theorem publishStores_fst (f : List Byte) (G : Nat) :
    (publishStores f G).map Prod.fst = dataFields := rfl

theorem dataFields_nodup : dataFields.Nodup := by decide

theorem dataFields_no_generation : Field.generation ∉ dataFields := by decide

theorem mem_dataFields (f : Field) (h : f ≠ .generation) : f ∈ dataFields := by
  cases f with
  | generation => exact absurd rfl h
  | flags => decide
  | quality => decide
  | channelCount => decide
  | channel i => revert i; decide

/-- `PUBLISH(f, G)` under any plan (44_shared_block.md R180 to R185). -/
theorem publish_spec (f : List Byte) (G : Nat) (s : State) :
    PublishSpec (publishStores f G) { s with plans := s.plans.tail } (publish f G s) := by
  refine runPublish_spec _ _ _ (fun w hw hg => ?_) ?_
  · exact dataFields_no_generation (hg ▸ publishStores_fst f G ▸ List.mem_map_of_mem hw)
  · rw [publishStores_fst]; exact dataFields_nodup

theorem publishStores_mem (f : List Byte) (G : Nat) :
    (Field.flags, (statusOf f G).toNat) ∈ publishStores f G ∧
      (Field.quality, (qualityOf f G).toNat) ∈ publishStores f G ∧
      (Field.channelCount, Config.groupChannels * G) ∈ publishStores f G ∧
      ∀ i, (Field.channel i, channelValue f G i.val) ∈ publishStores f G := by
  refine ⟨List.mem_map.2 ⟨.flags, mem_dataFields _ (by simp), rfl⟩,
    List.mem_map.2 ⟨.quality, mem_dataFields _ (by simp), rfl⟩,
    List.mem_map.2 ⟨.channelCount, mem_dataFields _ (by simp), rfl⟩,
    fun i => List.mem_map.2 ⟨.channel i, mem_dataFields _ (by simp), rfl⟩⟩

end Sys2Proof.Machine
end

