-- ==== Sys2Proof/Laws/Bytes.lean ====
section
/-! SUPPORT. Field assembly and its inverse agree; what the decoder accepts it spells back. -/

namespace Sys2Proof

/-! ### Bytes of a value -/

theorem le16_byteAt (v : Word16) : le16 (byteAt v 0) (byteAt v 1) = v := by
  refine BitVec.eq_of_getLsbD_eq fun i hi => ?_
  simp only [le16, byteAt, BitVec.getLsbD_append, BitVec.getLsbD_extractLsb']
  split
  · rw [decide_eq_true (by omega), Bool.true_and]; congr 1; omega
  · rw [decide_eq_true (by omega), Bool.true_and]; congr 1; omega

theorem le32_byteAt (v : Word) :
    le32 (byteAt v 0) (byteAt v 1) (byteAt v 2) (byteAt v 3) = v := by
  refine BitVec.eq_of_getLsbD_eq fun i hi => ?_
  simp only [le32, byteAt, BitVec.getLsbD_append, BitVec.getLsbD_extractLsb']
  repeat' split
  all_goals (rw [decide_eq_true (by omega), Bool.true_and]; congr 1; omega)

theorem le88_byteAt (g : Group) :
    le88 (byteAt g 0) (byteAt g 1) (byteAt g 2) (byteAt g 3) (byteAt g 4) (byteAt g 5)
      (byteAt g 6) (byteAt g 7) (byteAt g 8) (byteAt g 9) (byteAt g 10) = g := by
  refine BitVec.eq_of_getLsbD_eq fun i hi => ?_
  simp only [le88, byteAt, BitVec.getLsbD_append, BitVec.getLsbD_extractLsb']
  repeat' split
  all_goals (rw [decide_eq_true (by omega), Bool.true_and]; congr 1; omega)

theorem bytesLE16_le16 (a b : Byte) : bytesLE16 (le16 a b) = [a, b] := by
  simp only [bytesLE16, List.cons.injEq, and_true]
  refine ⟨?_, ?_⟩ <;> ext i hi <;>
    simp only [le16, byteAt, BitVec.getElem_extractLsb', BitVec.getLsbD_append]
  · rw [if_pos (by omega), BitVec.getLsbD_eq_getElem (by omega)]; congr 1; omega
  · rw [if_neg (by omega), BitVec.getLsbD_eq_getElem (by omega)]; congr 1; omega

theorem byteAt_append_low (hi : BitVec n) (b : Byte) : byteAt (hi ++ b) 0 = b := by
  ext i h
  simp only [byteAt, BitVec.getElem_extractLsb', BitVec.getLsbD_append]
  rw [if_pos (by omega), BitVec.getLsbD_eq_getElem (by omega)]; congr 1; omega

theorem byteAt_append_succ (hi : BitVec n) (b : Byte) (k : Nat) :
    byteAt (hi ++ b) (k + 1) = byteAt hi k := by
  ext i h
  simp only [byteAt, BitVec.getElem_extractLsb', BitVec.getLsbD_append]
  rw [if_neg (by omega)]; congr 1; omega

theorem byteAt_zero_self (b : Byte) : byteAt b 0 = b := by
  ext i h
  simp [byteAt]

theorem bytesLE32_le32 (a b c d : Byte) : bytesLE32 (le32 a b c d) = [a, b, c, d] := by
  have h3 : byteAt (d ++ c ++ b ++ a) 3 = d := by
    rw [byteAt_append_succ _ _ 2, byteAt_append_succ _ _ 1, byteAt_append_succ _ _ 0,
      byteAt_zero_self]
  have h2 : byteAt (d ++ c ++ b ++ a) 2 = c := by
    rw [byteAt_append_succ _ _ 1, byteAt_append_succ _ _ 0, byteAt_append_low]
  have h1 : byteAt (d ++ c ++ b ++ a) 1 = b := by
    rw [byteAt_append_succ _ _ 0, byteAt_append_low]
  have h0 : byteAt (d ++ c ++ b ++ a) 0 = a := byteAt_append_low _ _
  simp only [bytesLE32, le32]
  exact congrArg₂ _ h0 (congrArg₂ _ h1 (congrArg₂ _ h2 (congrArg₂ _ h3 rfl)))

theorem groupBytes_le88 (b0 b1 b2 b3 b4 b5 b6 b7 b8 b9 b10 : Byte) :
    groupBytes (le88 b0 b1 b2 b3 b4 b5 b6 b7 b8 b9 b10) =
      [b0, b1, b2, b3, b4, b5, b6, b7, b8, b9, b10] := by
  have h : ∀ k (hk : k < 11), byteAt (le88 b0 b1 b2 b3 b4 b5 b6 b7 b8 b9 b10) k =
      [b0, b1, b2, b3, b4, b5, b6, b7, b8, b9, b10][k] := by
    intro k hk
    unfold le88
    interval_cases k <;>
      first
        | exact byteAt_append_low _ _
        | (repeat (first | rw [byteAt_append_succ _ _ _]))
          first | exact byteAt_append_low _ _ | exact byteAt_zero_self _
  simp only [groupBytes, h 0 (by omega), h 1 (by omega), h 2 (by omega), h 3 (by omega),
    h 4 (by omega), h 5 (by omega), h 6 (by omega), h 7 (by omega), h 8 (by omega),
    h 9 (by omega), h 10 (by omega), List.getElem_cons_zero, List.getElem_cons_succ]

theorem groupBytes_length (g : Group) : (groupBytes g).length = 11 := rfl

theorem takeGroup_groupBytes (g : Group) (rest : List Byte) :
    takeGroup (groupBytes g ++ rest) = some (g, rest) := by
  simp only [groupBytes, List.cons_append, List.nil_append, takeGroup, le88_byteAt]

/-- What `takeGroup` takes, spelt back, is what stood there. -/
theorem takeGroup_eq_some {bs rest : List Byte} {g : Group}
    (h : takeGroup bs = some (g, rest)) : bs = groupBytes g ++ rest := by
  unfold takeGroup at h
  split at h
  · cases h
    rw [groupBytes_le88]; rfl
  · cases h

end Sys2Proof
end

