-- ==== Sys2Proof/Laws/Frames.lean ====
section
/-! SUPPORT. The bytes of frames: their lengths, their fields read back, the shape test, and what
the decoder, `TRY_CONTROL` and `TRY_LINK` answer on them. -/

namespace Sys2Proof

open Sys2Proof.Machine

/-! ### Control frames -/

theorem Groups.count_cases (gs : Groups) : gs.count = 1 ∨ gs.count = 2 ∨ gs.count = 3 := by
  cases gs <;> simp [Groups.count, Groups.list]

theorem controlBytes_length (gs : Groups) (st q c : Byte) :
    (controlBytes gs st q c).length = controlLen gs.count := by
  cases gs <;> rfl

theorem controlBytes_take (gs : Groups) (st q c : Byte) (rest : List Byte) :
    (controlBytes gs st q c ++ rest).take (controlLen gs.count) = controlBytes gs st q c := by
  rw [← controlBytes_length gs st q c, List.take_left]

theorem controlBytes_drop (gs : Groups) (st q c : Byte) (rest : List Byte) :
    (controlBytes gs st q c ++ rest).drop (controlLen gs.count) = rest := by
  rw [← controlBytes_length gs st q c, List.drop_left]

/-- The first two bytes of a control frame, and the others. -/
theorem controlBytes_eq_cons (gs : Groups) (st q c : Byte) :
    controlBytes gs st q c = controlSize gs.count :: Config.ctrlHeader ::
      (gs.list.flatMap groupBytes ++ [st, q] ++ [c]) := rfl

theorem controlShape_count (gs : Groups) :
    controlShape (controlSize gs.count) Config.ctrlHeader = some gs.count := by
  cases gs <;> rfl

/-- `CONTROL_SHAPE` in the terms claims use. -/
theorem controlShape_eq_some (b0 b1 : Byte) (G : Nat) :
    controlShape b0 b1 = some G ↔ ShapeOf b0 b1 G := by
  unfold controlShape ShapeOf Config.ctrlHeader
  by_cases h1 : b1 = 255#8
  · by_cases ha : b0 = 13#8
    · subst ha; simp [h1]; exact eq_comm
    · by_cases hb : b0 = 24#8
      · subst hb; simp [h1]; exact eq_comm
      · by_cases hc : b0 = 35#8
        · subst hc; simp [h1]; exact eq_comm
        · simp [h1, ha, hb, hc]
  · simp [h1]

theorem controlShape_eq_none (b0 b1 : Byte) :
    controlShape b0 b1 = none ↔ ∀ G, ¬ ShapeOf b0 b1 G := by
  simp only [← controlShape_eq_some, Option.eq_none_iff_forall_ne_some, ne_eq]

theorem shapeOf_count (gs : Groups) : ShapeOf (controlSize gs.count) 0xFF gs.count :=
  (controlShape_eq_some _ _ _).1 (controlShape_count gs)

/-- A byte run of at least 11 bytes begins with a group. -/
theorem exists_takeGroup {bs : List Byte} (h : 11 ≤ bs.length) :
    ∃ g rest, bs = groupBytes g ++ rest ∧ rest.length + 11 = bs.length := by
  match bs, h with
  | b0 :: b1 :: b2 :: b3 :: b4 :: b5 :: b6 :: b7 :: b8 :: b9 :: b10 :: rest, _ =>
    exact ⟨le88 b0 b1 b2 b3 b4 b5 b6 b7 b8 b9 b10, rest, by rw [groupBytes_le88]; rfl, by simp⟩

theorem exists_tail {bs : List Byte} (h : 3 ≤ bs.length) :
    ∃ st q c rest, bs = st :: q :: c :: rest := by
  match bs, h with
  | st :: q :: c :: rest, _ => exact ⟨st, q, c, rest, rfl⟩

/-- Bytes with a control shape, at least as many as it needs, begin with a control frame. -/
theorem exists_controlBytes {b0 b1 : Byte} {r : List Byte} {G : Nat} (hs : ShapeOf b0 b1 G)
    (hl : controlLen G ≤ (b0 :: b1 :: r).length) :
    ∃ gs st q c rest, b0 :: b1 :: r = controlBytes gs st q c ++ rest ∧ gs.count = G := by
  obtain ⟨rfl, ⟨rfl, rfl⟩ | ⟨rfl, rfl⟩ | ⟨rfl, rfl⟩⟩ := hs <;>
    simp only [controlLen, Config.groupBytes, List.length_cons] at hl
  · obtain ⟨g0, r0, rfl, h0⟩ := exists_takeGroup (bs := r) (by omega)
    obtain ⟨st, q, c, rest, rfl⟩ := exists_tail (bs := r0) (by omega)
    exact ⟨.one g0, st, q, c, rest, rfl, rfl⟩
  · obtain ⟨g0, r0, rfl, h0⟩ := exists_takeGroup (bs := r) (by omega)
    obtain ⟨g1, r1, rfl, h1⟩ := exists_takeGroup (bs := r0) (by omega)
    obtain ⟨st, q, c, rest, rfl⟩ := exists_tail (bs := r1) (by omega)
    exact ⟨.two g0 g1, st, q, c, rest, rfl, rfl⟩
  · obtain ⟨g0, r0, rfl, h0⟩ := exists_takeGroup (bs := r) (by omega)
    obtain ⟨g1, r1, rfl, h1⟩ := exists_takeGroup (bs := r0) (by omega)
    obtain ⟨g2, r2, rfl, h2⟩ := exists_takeGroup (bs := r1) (by omega)
    obtain ⟨st, q, c, rest, rfl⟩ := exists_tail (bs := r2) (by omega)
    exact ⟨.three g0 g1 g2, st, q, c, rest, rfl, rfl⟩

/-! ### Fields read back -/

theorem statusOf_controlBytes (gs : Groups) (st q c : Byte) :
    statusOf (controlBytes gs st q c) gs.count = st := by
  cases gs <;> rfl

theorem qualityOf_controlBytes (gs : Groups) (st q c : Byte) :
    qualityOf (controlBytes gs st q c) gs.count = q := by
  cases gs <;> rfl

theorem groupOf_eq {f rest : List Byte} {k : Nat} {g : Group}
    (h : f.drop (2 + Config.groupBytes * k) = groupBytes g ++ rest) : groupOf f k = g := by
  rw [groupOf, h, takeGroup_groupBytes]

theorem groupOf_controlBytes (gs : Groups) (st q c : Byte) (k : Nat) (hk : k < gs.count) :
    groupOf (controlBytes gs st q c) k = gs.list.getD k 0 := by
  cases gs with
  | one g0 =>
    obtain rfl : k = 0 := by simp [Groups.count, Groups.list] at hk; omega
    exact groupOf_eq (rest := [st, q, c]) rfl
  | two g0 g1 =>
    obtain rfl | rfl : k = 0 ∨ k = 1 := by simp [Groups.count, Groups.list] at hk; omega
    · exact groupOf_eq (rest := groupBytes g1 ++ [st, q, c]) rfl
    · exact groupOf_eq (rest := [st, q, c]) rfl
  | three g0 g1 g2 =>
    obtain rfl | rfl | rfl : k = 0 ∨ k = 1 ∨ k = 2 := by
      simp [Groups.count, Groups.list] at hk; omega
    · exact groupOf_eq (rest := groupBytes g1 ++ (groupBytes g2 ++ [st, q, c])) rfl
    · exact groupOf_eq (rest := groupBytes g2 ++ [st, q, c]) rfl
    · exact groupOf_eq (rest := [st, q, c]) rfl

/-! ### Link frames -/

theorem linkBytes_length (dev prim c : Byte) (app : Word16) (data : Word) :
    (linkBytes dev prim app data c).length = 10 := rfl

theorem deviceOf_linkBytes (dev prim c : Byte) (app : Word16) (data : Word) :
    deviceOf (linkBytes dev prim app data c) = dev := rfl

theorem primitiveOf_linkBytes (dev prim c : Byte) (app : Word16) (data : Word) :
    primitiveOf (linkBytes dev prim app data c) = prim := rfl

theorem appIdOf_linkBytes (dev prim c : Byte) (app : Word16) (data : Word) :
    appIdOf (linkBytes dev prim app data c) = app := le16_byteAt app

theorem dataOf_linkBytes (dev prim c : Byte) (app : Word16) (data : Word) :
    dataOf (linkBytes dev prim app data c) = data := le32_byteAt data

/-- Ten bytes that begin with 0x08 are a link frame. -/
theorem exists_linkBytes {f : List Byte} (hl : f.length = 10) (h0 : f[0]? = some 0x08) :
    ∃ dev prim app data c, f = linkBytes dev prim app data c := by
  match f, hl, h0 with
  | [_, dev, prim, a0, a1, d0, d1, d2, d3, c], _, h0 =>
    obtain rfl : _ = (0x08 : Byte) := by simpa using h0
    refine ⟨dev, prim, le16 a0 a1, le32 d0 d1 d2 d3, c, ?_⟩
    rw [linkBytes, linkBody, bytesLE16_le16, bytesLE32_le32]; rfl

theorem validateLink_some_device {p : Params} {f : List Byte} {d : Byte}
    (h : validateLink p f = some d) : d = deviceOf f := by
  unfold validateLink at h
  repeat' split at h
  all_goals first | cases h; done | (cases h; rfl)

/-- A frame that validates has its length and its size byte. -/
theorem validateLink_some_shape {p : Params} {f : List Byte} {d : Byte}
    (h : validateLink p f = some d) : f.length = 10 ∧ f[0]? = some 0x08 := by
  unfold validateLink Config.linkFrameLen at h
  by_cases hl : f.length = 10
  · refine ⟨hl, ?_⟩
    by_cases h0 : linkShape (byteOf f 0) = true
    · match f, hl with
      | b :: _, _ => simpa [linkShape, byteOf, Config.linkSize] using h0
    · simp [hl, h0] at h
  · simp [hl] at h

/-! ### The receive procedures -/

theorem tryControl_short {s : State} (h : s.rx.length < 2) : tryControl s = .wait := by
  have h1 : rxPeek s 1 = none := List.getElem?_eq_none (by omega)
  unfold tryControl
  rw [h1]
  split <;> simp_all

theorem tryControl_cons {s : State} {b0 b1 : Byte} {r : List Byte} (h : s.rx = b0 :: b1 :: r) :
    tryControl s = match controlShape b0 b1 with
      | none => .bad
      | some G =>
          if s.rx.length < controlLen G then .wait
          else if check s.params (s.rx.take (controlLen G)) then
            .ok (s.rx.take (controlLen G)) G
          else .bad := by
  have h0 : rxPeek s 0 = some b0 := by simp [rxPeek, h]
  have h1 : rxPeek s 1 = some b1 := by simp [rxPeek, h]
  unfold tryControl
  rw [h0, h1]
  rfl

/-- `TRY_CONTROL` where the shape test fails. -/
theorem tryControl_noShape {s : State} {b0 b1 : Byte} {r : List Byte} (h : s.rx = b0 :: b1 :: r)
    (hs : ∀ G, ¬ ShapeOf b0 b1 G) : tryControl s = .bad := by
  rw [tryControl_cons h, (controlShape_eq_none _ _).2 hs]

/-- `TRY_CONTROL` on a frame still incomplete. -/
theorem tryControl_incomplete {s : State} {b0 b1 : Byte} {r : List Byte} {G : Nat}
    (h : s.rx = b0 :: b1 :: r) (hs : ShapeOf b0 b1 G) (hl : s.rx.length < controlLen G) :
    tryControl s = .wait := by
  rw [tryControl_cons h, (controlShape_eq_some _ _ _).2 hs]
  exact if_pos hl

/-- `TRY_CONTROL` on a frame whose checksum is wrong. -/
theorem tryControl_badSum {s : State} {b0 b1 : Byte} {r : List Byte} {G : Nat}
    (h : s.rx = b0 :: b1 :: r) (hs : ShapeOf b0 b1 G) (hl : controlLen G ≤ s.rx.length)
    (hc : check s.params (s.rx.take (controlLen G)) = false) : tryControl s = .bad := by
  rw [tryControl_cons h, (controlShape_eq_some _ _ _).2 hs]
  exact (if_neg (Nat.not_lt.2 hl)).trans (if_neg (by simp [hc]))

/-- `TRY_CONTROL` on a complete control frame. -/
theorem tryControl_frame {s : State} {gs : Groups} {st q c : Byte} {rest : List Byte}
    (h : s.rx = controlBytes gs st q c ++ rest) :
    tryControl s = if check s.params (controlBytes gs st q c) then
      .ok (controlBytes gs st q c) gs.count else .bad := by
  rw [tryControl_cons (h.trans (by rw [controlBytes_eq_cons]; rfl)), controlShape_count]
  simp only
  rw [h, controlBytes_take, if_neg]
  simp [controlBytes_length]

theorem exists_two {bs : List Byte} (h : ¬ bs.length < 2) : ∃ b0 b1 r, bs = b0 :: b1 :: r := by
  match bs, h with
  | [], h => simp at h
  | [_], h => simp at h
  | b0 :: b1 :: r, _ => exact ⟨b0, b1, r, rfl⟩

/-- `TRY_CONTROL` answers Ok exactly on a complete control frame that checks. -/
theorem tryControl_ok {s : State} {f : List Byte} {G : Nat} (h : tryControl s = .ok f G) :
    ∃ gs st q c rest, s.rx = controlBytes gs st q c ++ rest ∧ gs.count = G ∧
      f = controlBytes gs st q c ∧ check s.params f = true := by
  by_cases hl : s.rx.length < 2
  · rw [tryControl_short hl] at h; cases h
  obtain ⟨b0, b1, r, hr⟩ := exists_two hl
  rw [tryControl_cons hr] at h
  split at h
  · cases h
  rename_i G' hG
  split at h
  · cases h
  rename_i hlen
  split at h
  · rename_i hc
    cases h
    obtain ⟨gs, st, q, c, rest, he, rfl⟩ :=
      exists_controlBytes ((controlShape_eq_some _ _ _).1 hG) (by rw [← hr]; omega)
    rw [hr, he, controlBytes_take] at hc
    refine ⟨gs, st, q, c, rest, hr.trans he, rfl, ?_, ?_⟩
    · rw [hr, he, controlBytes_take]
    · rw [hr, he, controlBytes_take]; exact hc
  · cases h

/-- Where `TRY_CONTROL` answers Bad there are two bytes to drop. -/
theorem tryControl_bad {s : State} (h : tryControl s = .bad) :
    ∃ b0 b1 r, s.rx = b0 :: b1 :: r := by
  by_cases hl : s.rx.length < 2
  · rw [tryControl_short hl] at h; cases h
  exact exists_two hl

theorem tryLink_nil {s : State} (h : s.rx = []) : tryLink s = .wait := by
  simp [tryLink, rxPeek, h]

theorem tryLink_noHeader {s : State} {b : Byte} {r : List Byte} (h : s.rx = b :: r)
    (hb : b ≠ 0x08) : tryLink s = .noHeader := by
  have hb : ¬ b = 8#8 := hb
  simp [tryLink, rxPeek, h, linkShape, Config.linkSize, hb]

theorem tryLink_short {s : State} {r : List Byte} (h : s.rx = 0x08 :: r)
    (hl : s.rx.length < 10) : tryLink s = .wait := by
  rw [h] at hl
  simp only [List.length_cons] at hl
  simp [tryLink, rxPeek, h, linkShape, Config.linkSize, rxAvail, Config.linkFrameLen, hl]

/-- `TRY_LINK` on ten bytes that begin with 0x08. -/
theorem tryLink_frame {s : State} {f rest : List Byte} (h : s.rx = f ++ rest)
    (hl : f.length = 10) (h0 : f[0]? = some 0x08) :
    tryLink s = match validateLink s.params f with
      | none => .bad
      | some _ => .ok f := by
  have hp : rxPeek s 0 = some 0x08 := by
    rw [rxPeek, h, List.getElem?_append_left (by omega), h0]
  have ht : rxFront s Config.linkFrameLen = f := by
    rw [rxFront, h, Config.linkFrameLen, ← hl, List.take_left]
  unfold tryLink
  rw [hp]
  simp only
  rewrite [ht, if_neg (by simp [linkShape, Config.linkSize]),
    if_neg (by simp [rxAvail, h, hl, Config.linkFrameLen])]
  cases validateLink s.params f <;> rfl

/-- `TRY_LINK` answers Ok only on a frame that validates. -/
theorem tryLink_ok {s : State} {f : List Byte} (h : tryLink s = .ok f) :
    ∃ rest d, s.rx = f ++ rest ∧ validateLink s.params f = some d ∧ f.length = 10 := by
  unfold tryLink at h
  split at h
  · cases h
  split at h
  · cases h
  split at h
  · cases h
  split at h
  · cases h
  rename_i d hd
  cases h
  exact ⟨s.rx.drop Config.linkFrameLen, d, (List.take_append_drop _ _).symm, hd,
    (validateLink_some_shape hd).1⟩

/-! ### The decoder on frames -/

theorem decodeTail_eq_ok {mk : Byte → Byte → Byte → Instr} {bs rest : List Byte} {i : Instr}
    (h : decodeTail mk bs = .ok (i, rest)) :
    ∃ st q c, i = mk st q c ∧ bs = st :: q :: c :: rest := by
  unfold decodeTail at h
  split at h
  · cases h; exact ⟨_, _, _, rfl, rfl⟩
  · cases h

/-- A decoded control frame, spelt back, is what stood there. -/
theorem decodeControl_eq_ok {bs rest : List Byte} {i : Instr}
    (h : decodeControl bs = .ok (i, rest)) :
    ∃ gs st q c, i = controlRow gs st q c ∧ bs = controlBytes gs st q c ++ rest := by
  unfold decodeControl at h
  split at h
  rotate_left
  · cases h
  rename_i size header r
  split at h
  · cases h
  rename_i hh
  obtain rfl : header = Config.ctrlHeader := by simpa using hh
  split at h
  · rename_i hs; subst hs
    unfold decodeCtrl8 at h
    split at h
    rotate_left
    · cases h
    rename_i g0 r0 h0
    obtain ⟨st, q, c, rfl, rfl⟩ := decodeTail_eq_ok h
    exact ⟨.one g0, st, q, c, rfl, by rw [takeGroup_eq_some h0]; rfl⟩
  split at h
  · rename_i hs; subst hs
    unfold decodeCtrl16 at h
    split at h
    rotate_left
    · cases h
    rename_i g0 r0 h0
    split at h
    rotate_left
    · cases h
    rename_i g1 r1 h1
    obtain ⟨st, q, c, rfl, rfl⟩ := decodeTail_eq_ok h
    exact ⟨.two g0 g1, st, q, c, rfl,
      by rw [takeGroup_eq_some h0, takeGroup_eq_some h1]; rfl⟩
  split at h
  · rename_i hs; subst hs
    unfold decodeCtrl24 at h
    split at h
    rotate_left
    · cases h
    rename_i g0 r0 h0
    split at h
    rotate_left
    · cases h
    rename_i g1 r1 h1
    split at h
    rotate_left
    · cases h
    rename_i g2 r2 h2
    obtain ⟨st, q, c, rfl, rfl⟩ := decodeTail_eq_ok h
    exact ⟨.three g0 g1 g2, st, q, c, rfl,
      by rw [takeGroup_eq_some h0, takeGroup_eq_some h1, takeGroup_eq_some h2]; rfl⟩
  · cases h

/-- A decoded link frame, spelt back, is what stood there. -/
theorem decodeLink_eq_ok {mk : Byte → Byte → Word16 → Word → Byte → Instr}
    {bs rest : List Byte} {i : Instr} (h : decodeLink mk bs = .ok (i, rest)) :
    ∃ dev prim app data c, i = mk dev prim app data c ∧
      bs = linkBytes dev prim app data c ++ rest := by
  unfold decodeLink at h
  split at h
  · cases h
  split at h
  · cases h
  rename_i size r hs
  obtain rfl : size = Config.linkSize := by simpa using hs
  split at h
  rotate_left
  · cases h
  cases h
  refine ⟨_, _, _, _, _, rfl, ?_⟩
  rw [linkBytes, linkBody, bytesLE16_le16, bytesLE32_le32]; rfl

theorem encode_controlRow (gs : Groups) (st q c : Byte) :
    encode (controlRow gs st q c) = controlBytes gs st q c := by
  cases gs <;> rfl

theorem placeOf_controlRow (gs : Groups) (st q c : Byte) :
    placeOf (controlRow gs st q c) = .control := by
  cases gs <;> rfl

end Sys2Proof
end

