-- ==== Sys2Proof/Laws/Publish.lean ====
section
/-! SUPPORT. What a publish of a control frame stores, in the terms claims use, and what an
accepted control frame leaves. -/

namespace Sys2Proof.Machine

open Sys2Proof

/-! ### Values -/

theorem raw2pulse_eq_pulseOf (raw : Nat) : raw2pulse raw = pulseOf raw := rfl

theorem raw2pulse_bounds (raw : Nat) : 500 ≤ raw2pulse raw ∧ raw2pulse raw ≤ 2500 := by
  simp only [raw2pulse, Config.pulseMin, Config.pulseMax, Config.rawMin, Config.rawMax]
  omega

/-- Every decoded channel is UNSET or a pulse (41_channels.md R115). -/
theorem channelValue_legal (f : List Byte) (G c : Nat) : UnsetOrPulse (channelValue f G c) := by
  unfold channelValue UnsetOrPulse
  split
  · exact .inr (raw2pulse_bounds _)
  · exact .inl rfl

theorem UnsetOrPulse.lt {v : Nat} (h : UnsetOrPulse v) : v < 4294967296 := by
  unfold UnsetOrPulse at h; omega

/-- `UNPACK11` as arithmetic (41_channels.md R110). -/
theorem unpack11_toNat (b : Group) (i : Nat) :
    (unpack11 b i).toNat = b.toNat / 2 ^ (11 * i) % 2048 := by
  rw [unpack11, BitVec.extractLsb'_toNat, Nat.shiftRight_eq_div_pow]

/-- A frame's channel is the value its groups give (41_channels.md R112, R115). -/
theorem channelValue_controlBytes (gs : Groups) (st q c : Byte) (k : Nat) :
    channelValue (controlBytes gs st q c) gs.count k = slotValue gs k := by
  unfold channelValue slotValue Config.groupChannels Config.unset
  split
  · rw [raw2pulse_eq_pulseOf, rawOf, rawChannel, unpack11_toNat, Config.groupChannels,
      groupOf_controlBytes gs st q c _ (by omega)]
  · rfl

theorem slotValue_legal (gs : Groups) (k : Nat) : UnsetOrPulse (slotValue gs k) := by
  have h := channelValue_legal (controlBytes gs 0 0 0) gs.count k
  rwa [channelValue_controlBytes] at h

/-! ### A publish of a control frame -/

theorem PublishSpec.blockHolds {gs : Groups} {st q c : Byte} {s t : State}
    (h : PublishSpec (publishStores (controlBytes gs st q c) gs.count) s t) :
    BlockHolds t gs st q := by
  obtain ⟨hf, hq, hc, hch⟩ := publishStores_mem (controlBytes gs st q c) gs.count
  refine ⟨?_, ?_, ?_, fun i => ?_⟩
  · rw [h.stored _ hf, statusOf_controlBytes]
    exact Nat.mod_eq_of_lt st.isLt
  · rw [h.stored _ hq, qualityOf_controlBytes]
    exact Nat.mod_eq_of_lt q.isLt
  · rw [h.stored _ hc]
    rcases gs.count_cases with hG | hG | hG <;> rw [hG] <;> rfl
  · rw [h.stored _ (hch i), channelValue_controlBytes]
    exact Nat.mod_eq_of_lt (UnsetOrPulse.lt (slotValue_legal gs i.val))

theorem untouched_offField {s : State} {a : Nat} (h : Untouched s a) : offField s a := by
  unfold Untouched at h
  unfold offField inBlock reservedOffset Config.scbSize
  simp only [Bool.and_eq_false_iff, decide_eq_false_iff_not]
  omega

/-! ### Inside a publish -/

/-- Where a publish stands after its events `pre`, if no more of them are stores than there are
field stores: the rest of the plan goes on from a state `u` that still holds the old generation
(44_shared_block.md R185). -/
theorem runPublish_prefix (pre : List PublishMove) (ws : List (Field × Nat)) (s : State)
    (hg : ∀ w ∈ ws, w.1 ≠ .generation) (h : storesIn pre ≤ ws.length) :
    ∃ u left, left.length + storesIn pre = ws.length ∧ (∀ w ∈ left, w.1 ≠ .generation) ∧
      loadField u .generation = loadField s .generation ∧
      ∀ post, runPublish (pre ++ post) ws s = runPublish post left u := by
  induction pre generalizing ws s with
  | nil => exact ⟨s, ws, rfl, hg, rfl, fun _ => rfl⟩
  | cons p pre ih =>
    cases p with
    | host m =>
      obtain ⟨u, left, hl, hw, hu, hr⟩ := ih ws (hostMove m s) hg h
      exact ⟨u, left, hl, hw, by rw [hu, loadField_hostMove], hr⟩
    | store pick =>
      cases ws with
      | nil => simp [storesIn] at h
      | cons w ws =>
        have hk : pick % (ws.length + 1) < (w :: ws).length := Nat.mod_lt _ (by simp)
        have hlen := List.length_eraseIdx_of_lt hk
        simp only [storesIn, List.length_cons, Nat.add_sub_cancel] at h hlen
        obtain ⟨u, left, hl, hw, hu, hr⟩ := ih ((w :: ws).eraseIdx (pick % (ws.length + 1)))
          (storeField ((w :: ws).getD (pick % (ws.length + 1)) w).1
            ((w :: ws).getD (pick % (ws.length + 1)) w).2 s)
          (fun x hx => hg x (List.mem_of_mem_eraseIdx hx)) (by omega)
        refine ⟨u, left, by simp only [storesIn, List.length_cons]; omega, hw, ?_, hr⟩
        rw [hu, loadField_storeField_ne]
        rw [List.getD_eq_getElem _ _ hk]
        exact hg _ (List.getElem_mem hk)

theorem publishStores_length (f : List Byte) (G : Nat) : (publishStores f G).length = 27 := rfl

theorem publishStores_no_generation (f : List Byte) (G : Nat) :
    ∀ w ∈ publishStores f G, w.1 ≠ .generation := fun _ hw hg =>
  dataFields_no_generation (hg ▸ publishStores_fst f G ▸ List.mem_map_of_mem hw)

/-- The generation store touches no other field. -/
theorem BlockHolds.of_bumpGeneration {u : State} {gs : Groups} {st q : Byte}
    (h : BlockHolds (bumpGeneration u) gs st q) : BlockHolds u gs st q := by
  simpa [BlockHolds, bumpGeneration, loadField_storeField_ne] using h

/-! ### HOST's side -/

theorem HostSideKept.refl (s : State) : HostSideKept s s :=
  ⟨rfl, rfl, rfl, rfl, rfl, rfl, rfl, rfl⟩

theorem HostSideKept.trans {s t u : State} (h : HostSideKept s t) (h' : HostSideKept t u) :
    HostSideKept s u := by
  obtain ⟨a, b, c, d, e, f, g, i⟩ := h
  obtain ⟨a', b', c', d', e', f', g', i'⟩ := h'
  exact ⟨a'.trans a, b'.trans b, c'.trans c, d'.trans d, e'.trans e, f'.trans f, g'.trans g,
    i'.trans i⟩

theorem hostSideKept_storeField (f : Field) (v : Nat) (s : State) :
    HostSideKept s (storeField f v s) := ⟨rfl, rfl, rfl, rfl, rfl, rfl, rfl, rfl⟩

theorem hostSideKept_storeAll_bump (ws : List (Field × Nat)) (s : State) :
    HostSideKept s (bumpGeneration (storeAll ws s)) := by
  induction ws generalizing s with
  | nil => exact hostSideKept_storeField _ _ _
  | cons w ws ih => exact HostSideKept.trans (hostSideKept_storeField w.1 w.2 s) (ih _)

/-- A publish with no step of HOST inside leaves HOST's side as it was. -/
theorem hostSideKept_runPublish (ps : List PublishMove) (ws : List (Field × Nat)) (s : State)
    (h : ∀ m ∈ ps, ∃ k, m = PublishMove.store k) : HostSideKept s (runPublish ps ws s) := by
  induction ps generalizing ws s with
  | nil => exact hostSideKept_storeAll_bump ws s
  | cons p ps ih =>
    obtain ⟨k, rfl⟩ := h p (by simp)
    have ih := fun ws s => ih ws s fun m hm => h m (by simp [hm])
    cases ws with
    | nil => exact hostSideKept_storeField _ _ _
    | cons w ws => exact HostSideKept.trans (hostSideKept_storeField _ _ _) (ih _ _)

theorem hostSideKept_publish (f : List Byte) (G : Nat) (s : State) (h : Undisturbed s) :
    HostSideKept s (publish f G s) :=
  HostSideKept.trans (t := { s with plans := s.plans.tail })
    ⟨rfl, rfl, rfl, rfl, rfl, rfl, rfl, rfl⟩ (hostSideKept_runPublish _ _ _ h)

/-- A control frame whose checksum is right is the frame of its body (40_codec.md R94). -/
theorem controlBytes_eq_controlFrame {p : Params} {f : ControlBody} {c : Byte}
    (h : check p (controlBytes f.groups f.status f.quality c) = true) :
    controlBytes f.groups f.status f.quality c = controlFrame p f := by
  have hc : c = controlChecksum p f.groups f.status f.quality := by
    have h := of_decide_eq_true h
    simp only [controlBytes, covered, List.getLast?_concat, List.dropLast_concat,
      Option.some.injEq] at h
    rw [h, controlChecksum]
    split <;> rfl
  rw [controlFrame, ← hc]

/-- An accepted control frame is published as `PUBLISH` of its body does it, without the frame in
`rx` (42_link_fsm.md R140, R141). -/
theorem acceptControl_eq_publish {s : State} {f : ControlBody} {c : Byte} {rest : List Byte}
    (h : s.rx = controlBytes f.groups f.status f.quality c ++ rest)
    (hc : check s.params (controlBytes f.groups f.status f.quality c) = true) :
    acceptControl (controlBytes f.groups f.status f.quality c) f.groups.count s =
      goTo .readDownlink
        (publish (controlFrame s.params f) f.groups.count { s with rx := rest }) := by
  rw [acceptControl, controlBytes_eq_controlFrame hc, rxDrop, h, controlBytes_drop]

/-- What an accepted control frame leaves, under any plan (42_link_fsm.md R140, R141). -/
theorem acceptControl_accepted {s : State} {gs : Groups} {st q c : Byte} {rest : List Byte}
    (h : s.rx = controlBytes gs st q c ++ rest) :
    Accepted s (acceptControl (controlBytes gs st q c) gs.count s) gs st q rest := by
  have hp := publish_spec (controlBytes gs st q c) gs.count (rxDrop (controlLen gs.count) s)
  exact
    { state := rfl
      rx := by
        rw [acceptControl, goTo_rx, hp.rx]
        simp only [rxDrop_rx, h, controlBytes_drop]
      block := hp.blockHolds
      generation := hp.generation
      untouched := fun a ha => hp.offField a (untouched_offField ha)
      tDl := hp.tDl
      txbuf := hp.txbuf
      tx := hp.tx
      echoed := hp.echoed
      cyc := hp.cyc
      params := hp.params
      agenda := hp.agenda
      plans := hp.plans
      freeCtr := hp.freeCtr
      hostSide := fun hu => hostSideKept_publish _ _ (rxDrop _ s) hu }

end Sys2Proof.Machine
end

