-- ==== Sys2Proof/Laws/Lsm.lean ====
section
/-! SUPPORT. Everything one step of the LSM can do (42_link_fsm.md R150), said once. -/

namespace Sys2Proof.Machine

open Sys2Proof

/-- `RxDrop` of one link frame. -/
theorem rxDrop_link {s : State} {f rest : List Byte} (h : s.rx = f ++ rest)
    (hl : f.length = 10) : rxDrop Config.linkFrameLen s = { s with rx := rest } := by
  simp only [rxDrop, h, Config.linkFrameLen, ← hl, List.drop_left]

/-- What a step of the LSM from `s` can leave: the rows of the transition table (42_link_fsm.md
R150). -/
inductive LsmEffect (s : State) : State → Prop where
  /-- Nothing happens. -/
  | wait : LsmEffect s s
  /-- A failed attempt in `Syncing`. -/
  | resync (b0 b1 : Byte) (r : List Byte) (hs : s.state = .syncing)
      (hr : s.rx = b0 :: b1 :: r) :
      LsmEffect s { s with rx := r, events := s.events ++ [.syncLoss] }
  /-- A control frame is accepted. -/
  | accept (gs : Groups) (st q c : Byte) (rest : List Byte)
      (hs : s.state = .syncing ∨ s.state = .readControl)
      (hr : s.rx = controlBytes gs st q c ++ rest)
      (hc : check s.params (controlBytes gs st q c) = true) :
      LsmEffect s (acceptControl (controlBytes gs st q c) gs.count s)
  /-- An error: an event, and `Syncing` or `ReadControl`. -/
  | error (e : Event) (st : LinkState) (hst : st = .syncing ∨ st = .readControl) :
      LsmEffect s (errorEntry e st s)
  /-- A link frame is accepted: dropped, and `t_dl` written or left. -/
  | link (f rest : List Byte) (d : Byte) (st : LinkState) (tDl : Word)
      (hr : s.rx = f ++ rest) (hv : validateLink s.params f = some d)
      (hst : st ≠ .writeUplink) :
      LsmEffect s { s with rx := rest, tDl := tDl, state := st }
  /-- No uplink frame was sent: on to `ReadControl`. -/
  | silent : LsmEffect s { s with state := .readControl }
  /-- The answer is built. -/
  | build (item : TelemetryItem) :
      LsmEffect s { afterPop s with
        txbuf := buildUplink s.params s.params.nodeId item, state := .writeUplink }
  /-- The answer is transmitted. -/
  | transmit (hs : s.state = .writeUplink) :
      LsmEffect s { s with tx := s.tx ++ s.txbuf.toList, state := .readUplink }

theorem stepSyncing_effect {s : State} (hs : s.state = .syncing) :
    LsmEffect s (stepSyncing s) := by
  unfold stepSyncing
  cases ht : tryControl s with
  | wait => exact .wait
  | bad =>
    obtain ⟨b0, b1, r, h⟩ := tryControl_bad ht
    simpa [raise, rxDrop, Config.syncDrop, h] using LsmEffect.resync b0 b1 r hs h
  | ok f G =>
    obtain ⟨gs, st, q, c, rest, h, rfl, rfl, hc⟩ := tryControl_ok ht
    exact .accept gs st q c rest (.inl hs) h hc

theorem stepReadControl_effect {s : State} (hs : s.state = .readControl) :
    LsmEffect s (stepReadControl s) := by
  unfold stepReadControl
  cases ht : tryControl s with
  | wait => exact .wait
  | bad => exact .error _ _ (.inl rfl)
  | ok f G =>
    obtain ⟨gs, st, q, c, rest, h, rfl, rfl, hc⟩ := tryControl_ok ht
    exact .accept gs st q c rest (.inr hs) h hc

theorem stepReadDownlink_effect (s : State) : LsmEffect s (stepReadDownlink s) := by
  unfold stepReadDownlink
  cases ht : tryLink s with
  | wait => exact .wait
  | noHeader => exact .error _ _ (.inl rfl)
  | bad => exact .error _ _ (.inl rfl)
  | ok f =>
    obtain ⟨rest, d, h, hv, hl⟩ := tryLink_ok ht
    simp only [rxDrop_link h hl]
    split
    · exact .link f rest d .waitWriteUplink _ h hv (by simp)
    · exact .link f rest d .readUplink s.tDl h hv (by simp)

theorem stepWaitWriteUplink_effect (s : State) : LsmEffect s (stepWaitWriteUplink s) := by
  unfold stepWaitWriteUplink
  split
  · exact .wait
  split
  · exact .error _ _ (.inr rfl)
  · simpa [buildAnswer, goTo] using
      LsmEffect.build (s := s) ((popped s).getD TelemetryItem.zero)

theorem stepReadUplink_effect (s : State) : LsmEffect s (stepReadUplink s) := by
  unfold stepReadUplink
  cases ht : tryLink s with
  | wait => exact .wait
  | noHeader => exact .silent
  | bad => exact .error _ _ (.inl rfl)
  | ok f =>
    obtain ⟨rest, d, h, hv, hl⟩ := tryLink_ok ht
    simp only [rxDrop_link h hl]
    exact .link f rest d .readControl s.tDl h hv (by simp)

/-- Everything a step of the LSM can do. -/
theorem lsmStep_effect (s : State) : LsmEffect s (lsmStep s) := by
  unfold lsmStep
  split
  · exact stepSyncing_effect ‹_›
  · exact stepReadControl_effect ‹_›
  · exact stepReadDownlink_effect s
  · exact stepWaitWriteUplink_effect s
  · exact .transmit ‹_›
  · exact stepReadUplink_effect s

end Sys2Proof.Machine
end

