-- ==== Sys2Proof/Laws/Outbox.lean ====
section
/-! SUPPORT. The outbox: its count as a number, reading a slot after a store, and the two cases of
dropping the oldest item (10_state.md R23, 43_outbox.md R171). -/

namespace Sys2Proof.Machine

open Sys2Proof

/-- The ring is full exactly where the indices are 8 apart (10_state.md R23). -/
theorem outboxCount_eq_cap (s : State) :
    outboxCount s = Config.outboxCap ↔ s.head - s.tail = 8 :=
  ⟨fun h => BitVec.eq_of_toNat_eq h, fun h => by rw [outboxCount, h]; rfl⟩

/-- The ring is empty exactly where the indices are equal (10_state.md R23). -/
theorem outboxCount_eq_zero (s : State) : outboxCount s = 0 ↔ s.head = s.tail := by
  have hh := s.head.isLt
  have ht := s.tail.isLt
  rw [outboxCount, BitVec.toNat_sub]
  constructor
  · intro h; exact BitVec.eq_of_toNat_eq (by omega)
  · intro h; rw [h]; omega

/-- The slot of the `k`-th item from an index. -/
theorem slotOf_add (t : BitVec 8) (k : Nat) :
    (slotOf (t + BitVec.ofNat 8 k)).val = (t.toNat + k) % 8 := by
  simp only [slotOf, BitVec.toNat_add, BitVec.toNat_ofNat]
  omega

theorem slotAt_setSlot_same (slots : Vector TelemetryItem 8) (index : BitVec 8)
    (item : TelemetryItem) : slotAt (setSlot slots index item) index = item :=
  Vector.getElem_set_self _

theorem slotAt_setSlot_ne (slots : Vector TelemetryItem 8) {index j : BitVec 8}
    (h : (slotOf index).val ≠ (slotOf j).val) (item : TelemetryItem) :
    slotAt (setSlot slots index item) j = slotAt slots j :=
  Vector.getElem_set_ne _ _ h

theorem dropOldest_full {s : State} (h : s.head - s.tail = 8) :
    dropOldest s = raise .outboxOverflow { s with tail := s.tail + 1 } := by
  rw [dropOldest, if_pos ((outboxCount_eq_cap s).2 h)]

theorem dropOldest_not_full {s : State} (h : s.head - s.tail ≠ 8) : dropOldest s = s := by
  rw [dropOldest, if_neg fun h' => h ((outboxCount_eq_cap s).1 h')]

theorem outboxItems_length (s : State) : (outboxItems s).length = outboxCount s := by
  simp [outboxItems]

end Sys2Proof.Machine
end

