-- ==== Sys2Proof/Laws/PerInstr.lean ====
section
/-! SUPPORT. For every instruction: the selector of its opcode-table row is what stands at the
front of its encoding (30_encoding.md R75, R76). -/

namespace Sys2Proof

/-- `match` and `mask` of a row of spec/opcode_table.json (30_encoding.md R75, R76). -/
def Laws.Selector.row : Instr → Nat × Nat
  | .ctrl8 .. => (0xDFF, 0xFFFF)
  | .ctrl16 .. => (0x18FF, 0xFFFF)
  | .ctrl24 .. => (0x23FF, 0xFFFF)
  | .dl .. => (0x800, 0xFF00)
  | .ul .. => (0x800, 0xFF00)
  | .syncing => (0x0, 0x7)
  | .readControl => (0x1, 0x7)
  | .readDownlink => (0x2, 0x7)
  | .waitWriteUplink => (0x3, 0x7)
  | .writeUplink => (0x4, 0x7)
  | .readUplink => (0x5, 0x7)
  | .fold .. => (0x0, 0xF)
  | .csum .. => (0x1, 0xF)
  | .check .. => (0x2, 0xF)
  | .validateControl .. => (0x3, 0xF)
  | .validateLink .. => (0x4, 0xF)
  | .buildUplink .. => (0x5, 0xF)
  | .unpack11 .. => (0x6, 0xF)
  | .pack11 .. => (0x7, 0xF)
  | .raw2pulse .. => (0x8, 0xF)
  | .pulse2raw .. => (0x9, 0xF)
  | .decodeChannels .. => (0xA, 0xF)
  | .hostPush .. => (0xB, 0xF)
  | .pop => (0xC, 0xF)
  | .publish .. => (0xD, 0xF)
  | .hostSnapshot => (0xE, 0xF)
  | .reset => (0xF, 0xF)

/-- What a row's `match` and `mask` apply to: the first two bytes of a frame as
`f[0] << 8 | f[1]`, the one byte of a code (30_encoding.md R75). -/
def Laws.Selector.word (i : Instr) : Nat :=
  match placeOf i, encode i with
  | .control, b0 :: b1 :: _ => b0.toNat * 256 + b1.toNat
  | .downlink, b0 :: b1 :: _ => b0.toNat * 256 + b1.toNat
  | .uplink, b0 :: b1 :: _ => b0.toNat * 256 + b1.toNat
  | .stateCode, b0 :: _ => b0.toNat
  | .opNumber, b0 :: _ => b0.toNat
  | _, _ => 0

/-- The encoding begins with the row's selector. -/
def Laws.Selector.Statement (i : Instr) : Prop :=
  Laws.Selector.word i &&& (Laws.Selector.row i).2 = (Laws.Selector.row i).1

/-- Device bytes are below the mask of a link row. -/
theorem Laws.Selector.link_mask : ∀ dev : Byte, (8 * 256 + dev.toNat) &&& 0xFF00 = 0x0800 := by
  decide

theorem Laws.Selector.ctrl8 (g0 : Group) (st q c : Byte) :
    Laws.Selector.Statement (.ctrl8 g0 st q c) := by
  simp [Laws.Selector.Statement, Laws.Selector.word, Laws.Selector.row, placeOf, encode, controlBytes,
    controlHead, controlSize, Groups.count, Groups.list, Config.ctrlHeader]

theorem Laws.Selector.ctrl16 (g0 g1 : Group) (st q c : Byte) :
    Laws.Selector.Statement (.ctrl16 g0 g1 st q c) := by
  simp [Laws.Selector.Statement, Laws.Selector.word, Laws.Selector.row, placeOf, encode, controlBytes,
    controlHead, controlSize, Groups.count, Groups.list, Config.ctrlHeader]

theorem Laws.Selector.ctrl24 (g0 g1 g2 : Group) (st q c : Byte) :
    Laws.Selector.Statement (.ctrl24 g0 g1 g2 st q c) := by
  simp [Laws.Selector.Statement, Laws.Selector.word, Laws.Selector.row, placeOf, encode, controlBytes,
    controlHead, controlSize, Groups.count, Groups.list, Config.ctrlHeader]

theorem Laws.Selector.dl (dev prim : Byte) (app : Word16) (data : Word) (c : Byte) :
    Laws.Selector.Statement (.dl dev prim app data c) := Laws.Selector.link_mask dev

theorem Laws.Selector.ul (dev prim : Byte) (app : Word16) (data : Word) (c : Byte) :
    Laws.Selector.Statement (.ul dev prim app data c) := Laws.Selector.link_mask dev

theorem Laws.Selector.syncing :
    Laws.Selector.Statement .syncing := rfl

theorem Laws.Selector.readControl :
    Laws.Selector.Statement .readControl := rfl

theorem Laws.Selector.readDownlink :
    Laws.Selector.Statement .readDownlink := rfl

theorem Laws.Selector.waitWriteUplink :
    Laws.Selector.Statement .waitWriteUplink := rfl

theorem Laws.Selector.writeUplink :
    Laws.Selector.Statement .writeUplink := rfl

theorem Laws.Selector.readUplink :
    Laws.Selector.Statement .readUplink := rfl

theorem Laws.Selector.fold (s : Word16) :
    Laws.Selector.Statement (.fold s) := by
  simp [Laws.Selector.Statement, Laws.Selector.word, Laws.Selector.row, placeOf, encode]

theorem Laws.Selector.csum (b : List Byte) :
    Laws.Selector.Statement (.csum b) := by
  simp [Laws.Selector.Statement, Laws.Selector.word, Laws.Selector.row, placeOf, encode]

theorem Laws.Selector.check (b0 b1 : Byte) (rest : List Byte) :
    Laws.Selector.Statement (.check b0 b1 rest) := by
  simp [Laws.Selector.Statement, Laws.Selector.word, Laws.Selector.row, placeOf, encode]

theorem Laws.Selector.validateControl (b0 b1 : Byte) (rest : List Byte) :
    Laws.Selector.Statement (.validateControl b0 b1 rest) := by
  simp [Laws.Selector.Statement, Laws.Selector.word, Laws.Selector.row, placeOf, encode]

theorem Laws.Selector.validateLink (f : List Byte) :
    Laws.Selector.Statement (.validateLink f) := by
  simp [Laws.Selector.Statement, Laws.Selector.word, Laws.Selector.row, placeOf, encode]

theorem Laws.Selector.buildUplink (dev : Byte) (item : TelemetryItem) :
    Laws.Selector.Statement (.buildUplink dev item) := by
  simp [Laws.Selector.Statement, Laws.Selector.word, Laws.Selector.row, placeOf, encode]

theorem Laws.Selector.unpack11 (b : Group) (i : Fin 8) :
    Laws.Selector.Statement (.unpack11 b i) := by
  simp [Laws.Selector.Statement, Laws.Selector.word, Laws.Selector.row, placeOf, encode]

theorem Laws.Selector.pack11 (r0 r1 r2 r3 r4 r5 r6 r7 : Nat) :
    Laws.Selector.Statement (.pack11 r0 r1 r2 r3 r4 r5 r6 r7) := by
  simp [Laws.Selector.Statement, Laws.Selector.word, Laws.Selector.row, placeOf, encode]

theorem Laws.Selector.raw2pulse (raw : BitVec 11) :
    Laws.Selector.Statement (.raw2pulse raw) := by
  simp [Laws.Selector.Statement, Laws.Selector.word, Laws.Selector.row, placeOf, encode]

theorem Laws.Selector.pulse2raw (pulse : Nat) :
    Laws.Selector.Statement (.pulse2raw pulse) := by
  simp [Laws.Selector.Statement, Laws.Selector.word, Laws.Selector.row, placeOf, encode]

theorem Laws.Selector.decodeChannels (f : ControlBody) :
    Laws.Selector.Statement (.decodeChannels f) := by
  simp [Laws.Selector.Statement, Laws.Selector.word, Laws.Selector.row, placeOf, encode]

theorem Laws.Selector.hostPush (item : TelemetryItem) :
    Laws.Selector.Statement (.hostPush item) := by
  simp [Laws.Selector.Statement, Laws.Selector.word, Laws.Selector.row, placeOf, encode]

theorem Laws.Selector.pop :
    Laws.Selector.Statement .pop := rfl

theorem Laws.Selector.publish (f : ControlBody) :
    Laws.Selector.Statement (.publish f) := by
  simp [Laws.Selector.Statement, Laws.Selector.word, Laws.Selector.row, placeOf, encode]

theorem Laws.Selector.hostSnapshot :
    Laws.Selector.Statement .hostSnapshot := rfl

theorem Laws.Selector.reset :
    Laws.Selector.Statement .reset := rfl

end Sys2Proof
end

