-- ==== Sys2Proof/Laws/Sched.lean ====
section
/-! SUPPORT. What the LSM fetches is the step of its current state, and what a step is. -/

namespace Sys2Proof.Machine

open Sys2Proof

/-- A state row, executed, is the LSM's step in that state (42_link_fsm.md R138). -/
theorem exec_stateRow (s : State) : exec (stateRow s.state) s = .next (lsmStep s) := by
  unfold lsmStep
  cases s.state <;> rfl

theorem receiveFrame_prefix {f : List Byte} {s : State} (h : f <+: s.rx) :
    receiveFrame f s = .next (lsmStep s) := by
  rw [receiveFrame, if_pos (List.isPrefixOf_iff_prefix.2 h)]

theorem receiveFrame_not_prefix {f : List Byte} {s : State} (h : ¬ f <+: s.rx) :
    receiveFrame f s = .refused .frameNotReceived := by
  rw [receiveFrame, if_neg fun hp => h (List.isPrefixOf_iff_prefix.1 hp)]

theorem exec_controlRow (gs : Groups) (st q c : Byte) (s : State) :
    exec (controlRow gs st q c) s = receiveFrame (controlBytes gs st q c) s := by
  cases gs <;> rfl

theorem framePosition_cases {st : LinkState} {p : Place} (h : framePosition st = some p) :
    p = .control ∨ p = .downlink ∨ p = .uplink := by
  cases st <;> simp [framePosition] at h <;> simp [← h]

/-- The fetched instruction, executed, is the LSM's step, frame or no frame (42_link_fsm.md
R138). -/
theorem lsmMove_eq (s : State) : lsmMove s = .next (lsmStep s) := by
  unfold lsmMove fetch
  split
  · exact exec_stateRow s
  rename_i p hp
  cases hd : decode p s.rx with
  | error e => exact exec_stateRow s
  | ok x =>
    obtain ⟨i, rest⟩ := x
    simp only [decodedInstr, Option.getD_some]
    rcases framePosition_cases hp with rfl | rfl | rfl
    · obtain ⟨gs, st, q, c, rfl, hb⟩ := decodeControl_eq_ok hd
      rw [exec_controlRow]
      exact receiveFrame_prefix ⟨rest, hb.symm⟩
    · obtain ⟨dev, prim, app, data, c, rfl, hb⟩ := decodeLink_eq_ok hd
      exact receiveFrame_prefix ⟨rest, hb.symm⟩
    · obtain ⟨dev, prim, app, data, c, rfl, hb⟩ := decodeLink_eq_ok hd
      exact receiveFrame_prefix ⟨rest, hb.symm⟩

/-- A step of a machine that is ready, with no move left: the LSM's step. -/
theorem step_idle {s : State} (hl : s.params.linkReady = true)
    (hp : paramsOk s.params = true) (ha : s.agenda = []) : step s = .next (lsmStep s) := by
  rw [step, stepMachine, if_neg (by simp [hl]), if_neg (by simp [hp])]
  simp only [ha, lsmMove_eq]

/-- A step of a machine that is ready, with a move left: that move. -/
theorem step_move {s : State} {m : Move} {ms : List Move} (hl : s.params.linkReady = true)
    (hp : paramsOk s.params = true) (ha : s.agenda = m :: ms) :
    step s = runMove m { s with agenda := ms } := by
  rw [step, stepMachine, if_neg (by simp [hl]), if_neg (by simp [hp])]
  simp only [ha]

/-- Where a step answers a next state: the LSM's step with no move left, or the first move. -/
theorem step_next {s t : State} (h : step s = .next t) :
    (s.agenda = [] ∧ t = lsmStep s) ∨
      ∃ m ms, s.agenda = m :: ms ∧ runMove m { s with agenda := ms } = .next t := by
  rw [step, stepMachine] at h
  split at h
  · cases h
  split at h
  · cases h
  split at h
  · rename_i ha
    rw [lsmMove_eq] at h
    cases h
    exact .inl ⟨ha, rfl⟩
  · rename_i m ms ha
    exact .inr ⟨m, ms, ha, h⟩

/-- Everything a move that answers a next state can be. -/
theorem runMove_next {m : Move} {s t : State} (h : runMove m s = .next t) :
    (m = .lsm ∧ t = lsmStep s) ∨
    (∃ b, m = .line b ∧ t = { s with rx := s.rx ++ [b] }) ∨
    (∃ b, m = .echo ∧ s.params.lineEcho = true ∧ s.tx[s.echoed]? = some b ∧
      t = { s with rx := s.rx ++ [b], echoed := s.echoed + 1 }) ∨
    (∃ n, m = .tick n ∧ t = { s with cyc := s.cyc + BitVec.ofNat 32 n }) ∨
    (∃ hm, m = .host hm ∧ t = hostMove hm s) ∨
    ∃ i, m = .call i ∧ placeOf i = .opNumber ∧ exec i s = .next t := by
  unfold runMove at h
  split at h
  · rw [lsmMove_eq] at h; cases h; exact .inl ⟨rfl, rfl⟩
  · cases h; exact .inr (.inl ⟨_, rfl, rfl⟩)
  · unfold echoMove at h
    split at h
    rotate_left
    · cases h
    rename_i he
    split at h
    rotate_left
    · cases h
    rename_i b hb
    cases h
    exact .inr (.inr (.inl ⟨b, rfl, he, hb, rfl⟩))
  · split at h
    · cases h
    · cases h; exact .inr (.inr (.inr (.inl ⟨_, rfl, rfl⟩)))
  · cases h; exact .inr (.inr (.inr (.inr (.inl ⟨_, rfl, rfl⟩))))
  · split at h
    · rename_i i hi
      exact .inr (.inr (.inr (.inr (.inr ⟨i, rfl, by simpa [isOperation] using hi, h⟩))))
    · cases h

/-- Everything an operation row can do (30_encoding.md R75 (c)). -/
theorem exec_operation {i : Instr} {s t : State} (hi : placeOf i = .opNumber)
    (h : exec i s = .next t) :
    (∃ r, t = answer r s) ∨ (∃ item, t = pushItem item s) ∨ (∃ r, t = answer r (afterPop s)) ∨
    (∃ f : ControlBody, i = .publish f ∧
      t = publish (controlFrame s.params f) f.groups.count s) ∨
    t = hostSnapshot s ∨ (i = .reset ∧ t = resetState s) := by
  cases i <;> simp [placeOf] at hi
  case hostPush => cases h; exact .inr (.inl ⟨_, rfl⟩)
  case pop => cases h; exact .inr (.inr (.inl ⟨_, rfl⟩))
  case publish => cases h; exact .inr (.inr (.inr (.inl ⟨_, rfl, rfl⟩)))
  case hostSnapshot => cases h; exact .inr (.inr (.inr (.inr (.inl rfl))))
  case reset => cases h; exact .inr (.inr (.inr (.inr (.inr ⟨rfl, rfl⟩))))
  all_goals (cases h; exact .inl ⟨_, rfl⟩)

/-- What every kind of move keeps, every step keeps. -/
theorem step_keeps {I : State → Prop} {s t : State} (h : step s = .next t) (hI : I s)
    (agenda : ∀ s ms, I s → I { s with agenda := ms })
    (lsm : ∀ s t, LsmEffect s t → I s → I t)
    (line : ∀ (s : State) (b : Byte), I s → I { s with rx := s.rx ++ [b] })
    (echo : ∀ (s : State) (b : Byte), s.tx[s.echoed]? = some b → I s →
      I { s with rx := s.rx ++ [b], echoed := s.echoed + 1 })
    (tick : ∀ s c, I s → I { s with cyc := c })
    (host : ∀ s m, I s → I (hostMove m s))
    (answer : ∀ s r, I s → I (answer r s))
    (pop : ∀ s, I s → I (afterPop s))
    (publish : ∀ s (f : ControlBody), I s →
      I (publish (controlFrame s.params f) f.groups.count s))
    (snapshot : ∀ s, I s → I (hostSnapshot s))
    (reset : ∀ s, I s → I (resetState s)) : I t := by
  obtain ⟨_, rfl⟩ | ⟨m, ms, ha, hr⟩ := step_next h
  · exact lsm s _ (lsmStep_effect s) hI
  have hI' := agenda s ms hI
  generalize { s with agenda := ms } = u at hr hI'
  obtain ⟨_, rfl⟩ | ⟨b, _, rfl⟩ | ⟨b, _, _, hb, rfl⟩ | ⟨n, _, rfl⟩ | ⟨hm, _, rfl⟩ |
    ⟨i, _, hi, he⟩ := runMove_next hr
  · exact lsm u _ (lsmStep_effect u) hI'
  · exact line _ _ hI'
  · exact echo _ _ hb hI'
  · exact tick _ _ hI'
  · exact host _ _ hI'
  · obtain ⟨r, rfl⟩ | ⟨item, rfl⟩ | ⟨r, rfl⟩ | ⟨f, _, rfl⟩ | rfl | ⟨_, rfl⟩ :=
      exec_operation hi he
    · exact answer _ _ hI'
    · exact host _ (.push item) hI'
    · exact answer _ _ (pop _ hI')
    · exact publish _ _ hI'
    · exact snapshot _ hI'
    · exact reset _ hI'

end Sys2Proof.Machine
end

