-- ==== Sys2Proof/Laws/Snapshot.lean ====
section
/-! SUPPORT. What HOST's loads do to the copy of a snapshot attempt (44_shared_block.md R186). -/

namespace Sys2Proof.Machine

open Sys2Proof

theorem copyAgrees_refl (c : Snapshot) (f : Field) : CopyAgrees c c f := by cases f <;> rfl

theorem copyAgrees_trans {c d e : Snapshot} {f : Field} (h : CopyAgrees c d f)
    (h' : CopyAgrees d e f) : CopyAgrees c e f := by
  cases f <;> exact Eq.trans h' h

/-- Agreeing copies hold the same load. -/
theorem copyHolds_of_agrees {s : State} {c d : Snapshot} {f : Field} (h : CopyAgrees c d f)
    (hc : CopyHolds s c f) : CopyHolds s d f := by
  cases f <;> simp only [CopyAgrees, CopyHolds] at h hc ⊢ <;> rw [h] <;> exact hc

/-- A loaded value stands in the copy. -/
theorem copyField_holds (s : State) {f : Field} (hf : f ≠ .generation) (c : Snapshot) :
    CopyHolds s (copyField f (loadField s f) c) f := by
  have hlt : ∀ w, f.width = w → loadField s f < 256 ^ w := fun _ hw => hw ▸ loadField_lt s f
  cases f with
  | generation => exact absurd rfl hf
  | flags => simpa [CopyHolds, copyField] using hlt 1 rfl
  | quality => simpa [CopyHolds, copyField] using hlt 1 rfl
  | channelCount => simpa [CopyHolds, copyField] using hlt 1 rfl
  | channel i => simpa [CopyHolds, copyField] using hlt 4 rfl

/-- A load changes the field it loads, and never the tag. -/
theorem copyField_agrees {f g : Field} (h : g ≠ f ∨ g = .generation) (v : Nat) (c : Snapshot) :
    CopyAgrees c (copyField f v c) g := by
  cases f with
  | channel i =>
    cases g with
    | channel j =>
      have hij : i.val ≠ j.val := fun e => by
        rcases h with h | h
        · exact h (by rw [Fin.ext e])
        · cases h
      exact Vector.getElem_set_ne i.isLt j.isLt hij
    | _ => rfl
  | _ => cases g <;> first | rfl | simp at h

/-- `n` loads, with at least so many fields left: the first `n` of them are loaded, the others
stay. -/
theorem hostLoads_take (n : Nat) (s : State) (c : Copy) (hn : n ≤ c.pending.length) :
    ∃ d : Snapshot,
      hostLoads n { s with copy := some c } =
        { s with copy := some { g1 := c.g1, pending := c.pending.drop n, partialCopy := d } } ∧
      (∀ f ∈ c.pending.take n, f ≠ .generation → CopyHolds s d f) ∧
      ∀ f, f ∉ c.pending.take n ∨ f = .generation → CopyAgrees c.partialCopy d f := by
  obtain ⟨g1, pending, pc⟩ := c
  induction n generalizing s pending pc with
  | zero => exact ⟨pc, rfl, by simp, fun f _ => copyAgrees_refl pc f⟩
  | succ n ih =>
    cases pending with
    | nil => simp at hn
    | cons f fs =>
      obtain ⟨d, h1, h2, h3⟩ :=
        ih s fs (copyField f (loadField s f) pc) (by simpa using hn)
      refine ⟨d, h1, fun g hg hgg => ?_, fun g hg => ?_⟩
      · by_cases hfs : g ∈ fs.take n
        · exact h2 g hfs hgg
        · obtain rfl : g = f := by simpa [hfs] using hg
          exact copyHolds_of_agrees (h3 g (.inl hfs)) (copyField_holds s hgg pc)
      · simp only [List.take_succ_cons, List.mem_cons, not_or] at hg
        exact copyAgrees_trans (copyField_agrees (hg.imp_left And.left) _ _)
          (h3 g (hg.imp_left And.right))

/-- As many loads as fields are left: all of them are loaded, the others stay. -/
theorem hostLoads_pending (s : State) (c : Copy) :
    ∃ d : Snapshot,
      hostLoads c.pending.length { s with copy := some c } =
        { s with copy := some { g1 := c.g1, pending := [], partialCopy := d } } ∧
      (∀ f ∈ c.pending, f ≠ .generation → CopyHolds s d f) ∧
      ∀ f, f ∉ c.pending ∨ f = .generation → CopyAgrees c.partialCopy d f := by
  simpa only [List.take_length, List.drop_length] using
    hostLoads_take c.pending.length s c (Nat.le_refl _)

/-! ### Loads and stores of one plan -/

/-- Loads of HOST at the front of a plan. -/
theorem runPublish_loads (n : Nat) (ps : List PublishMove) (ws : List (Field × Nat))
    (s : State) : runPublish (List.replicate n (.host (.load 0)) ++ ps) ws s =
      runPublish ps ws (hostLoads n s) := by
  induction n generalizing s with
  | zero => rfl
  | succ n ih => exact ih (hostLoad 0 s)

/-- All field stores, in listing order, at the front of a plan. -/
theorem runPublish_stores (ps : List PublishMove) (ws : List (Field × Nat)) (s : State) :
    runPublish (List.replicate ws.length (.store 0) ++ ps) ws s =
      runPublish ps [] (storeAll ws s) := by
  induction ws generalizing s with
  | nil => rfl
  | cons w ws ih =>
    simpa [List.replicate_succ, runPublish] using ih (storeField w.1 w.2 s)

/-- `n` more loads after `k`. -/
theorem hostLoads_add (k n : Nat) (s : State) :
    hostLoads (k + n) s = hostLoads n (hostLoads k s) := by
  induction k generalizing s with
  | zero => rw [Nat.zero_add]; rfl
  | succ k ih => rw [Nat.succ_add]; exact ih (hostLoad 0 s)

/-- The field stores touch the block alone. -/
theorem storeAll_eq (ws : List (Field × Nat)) (s : State) :
    storeAll ws s = { s with mem := (storeAll ws s).mem } := by
  induction ws generalizing s with
  | nil => rfl
  | cons w ws ih => exact ih (storeField w.1 w.2 s)

end Sys2Proof.Machine
end

