-- ==== Sys2Proof/Machine/Flags.lean ====
section
/-! DEFINITION. The status flags (10_state.md R17, 30_encoding.md R67). The block has no
other flags: no operation sets or tests a condition flag (40_codec.md R90). The block copies
the byte and never tests a bit; the positions are parameters of the host's reading (D6). -/

namespace Sys2Proof.Machine

open Sys2Proof

/-- `digital-ch17` of a `flags` byte. -/
def digitalCh17 (p : Params) (flags : Byte) : Bool := flags.getLsbD p.flagCh17Bit

/-- `digital-ch18` of a `flags` byte. -/
def digitalCh18 (p : Params) (flags : Byte) : Bool := flags.getLsbD p.flagCh18Bit

/-- `frame-lost` of a `flags` byte: passed through, not an error (60_exceptions.md R221). -/
def frameLost (p : Params) (flags : Byte) : Bool := flags.getLsbD p.flagFrameLostBit

/-- `failsafe-active` of a `flags` byte. -/
def failsafeActive (p : Params) (flags : Byte) : Bool := flags.getLsbD p.flagFailsafeBit

end Sys2Proof.Machine
end

