-- ==== Sys2Proof/Tests/Slice0.lean ====
section
/-! SUPPORT. Tests, each expected value taken from the vector or rule of spec/ that its comment
names, and for every statement of Sys2Proof/Certificates/Slice0/Obligations.lean that has
hypotheses a state and operands that meet them all together. -/

namespace Sys2Proof.Tests

-- One theorem at a time: each kernel evaluation runs on a thread with a large stack.
set_option Elab.async false

open Sys2Proof Sys2Proof.Machine

/-! ### Helpers -/

/-- The next state of an outcome. -/
def nextOf (o : Host.Outcome State Fault Refusal) : Option State :=
  match o with
  | .next s => some s
  | .fault _ => none
  | .refused _ => none

theorem exists_next {o : Host.Outcome State Fault Refusal} (h : (nextOf o).isSome = true) :
    ∃ t, o = .next t := by
  cases o with
  | next s => exact ⟨s, rfl⟩
  | fault _ => cases h
  | refused _ => cases h

/-- What `exec` returns to the caller. -/
def retOf (i : Instr) (s : State) : Option Ret := (nextOf (exec i s)).map State.ret

/-- Reset, then a state and received bytes. -/
def inState (st : LinkState) (rx : List Byte) : State := { State.reset with state := st, rx := rx }

/-- Reset, then one move to make. -/
def withMove (m : Move) : State := { State.reset with agenda := [m] }

/-- Reset, then outbox indices. -/
def ring (head tail : BitVec 8) : State := { State.reset with head := head, tail := tail }

/-- The eight sticks centred: the group of V40. -/
def centred : Group := 0x7C0F81F03E07C0F81F03E0

/-- V20, frame A. -/
def frameA : List Byte :=
  [0x0D, 0xFF, 0xE0, 0x03, 0x1F, 0xF8, 0xC0, 0x07, 0x3E, 0xF0, 0x81, 0x0F, 0x7C, 0x00, 0x64, 0x9B]

/-- V27: V20 with a wrong checksum. -/
def frameABad : List Byte :=
  [0x0D, 0xFF, 0xE0, 0x03, 0x1F, 0xF8, 0xC0, 0x07, 0x3E, 0xF0, 0x81, 0x0F, 0x7C, 0x00, 0x64, 0x9C]

/-- V32, a poll of node 2. -/
def frameD2 : List Byte := [0x08, 0x02, 0x10, 0x00, 0x00, 0x00, 0x00, 0x00, 0x00, 0xED]

/-- V33, a poll of node 5. -/
def frameD5 : List Byte := [0x08, 0x05, 0x10, 0x00, 0x00, 0x00, 0x00, 0x00, 0x00, 0xEA]

/-- V90: V32 with a wrong checksum. -/
def frameD2Bad : List Byte := [0x08, 0x02, 0x10, 0x00, 0x00, 0x00, 0x00, 0x00, 0x00, 0xEE]

/-- V34, an answer. -/
def frameU : List Byte := [0x08, 0x02, 0x10, 0x00, 0x03, 0x20, 0x02, 0x48, 0x83, 0xFC]

/-- The body of V20. -/
def bodyA : ControlBody := { groups := .one centred, status := 0x00, quality := 0x64 }

/-! ### Well-formedness -/

theorem test_wf_smoke :
    WellFormed (.pack11 65536 0 0 0 0 0 0 0) = false ∧
    WellFormed (.pack11 0 65536 0 0 0 0 0 0) = false ∧
    WellFormed (.pack11 0 0 65536 0 0 0 0 0) = false ∧
    WellFormed (.pack11 0 0 0 65536 0 0 0 0) = false ∧
    WellFormed (.pack11 0 0 0 0 65536 0 0 0) = false ∧
    WellFormed (.pack11 0 0 0 0 0 65536 0 0) = false ∧
    WellFormed (.pack11 0 0 0 0 0 0 65536 0) = false ∧
    WellFormed (.pack11 0 0 0 0 0 0 0 65536) = false ∧
    WellFormed (.pulse2raw 4294967296) = false := by decide +kernel

/-! ### Decoding: words written out from 30_encoding.md R61, R63, R76 and the vectors -/

/-- V20. -/
theorem test_decode_ctrl8 : decode .control frameA = .ok (.ctrl8 centred 0x00 0x64 0x9B, []) := by
  decide +kernel

/-- V21, and the bytes after the frame are left. -/
theorem test_decode_ctrl16 :
    decode .control [0x18, 0xFF, 0x08, 0x18, 0x84, 0x3F, 0xF2, 0x42, 0x9F, 0x37, 0xA9, 0xAB, 0x6C,
      0xE0, 0xDB, 0xA2, 0x35, 0xA3, 0xCA, 0xDC, 0x23, 0x0B, 0xBB, 0xE7, 0x03, 0x5A, 0x3F, 0x08] =
    .ok (.ctrl16 0x6CABA9379F42F23F841808 0xE7BB0B23DCCAA335A2DBE0 0x03 0x5A 0x3F, [0x08]) := by
  decide +kernel

/-- V22. -/
theorem test_decode_ctrl24 :
    decode .control [0x23, 0xFF, 0x00, 0x38, 0x00, 0x02, 0x12, 0x70, 0x7B, 0xDC, 0xE7, 0xFE, 0xFF,
      0xE0, 0x03, 0x1F, 0xF8, 0xC0, 0x07, 0x3E, 0xF0, 0x81, 0x0F, 0x7C, 0xAC, 0x98, 0x38, 0x7D,
      0x98, 0xEB, 0x0F, 0x61, 0xAB, 0xCB, 0x9A, 0x0C, 0x00, 0xF5] =
    .ok (.ctrl24 0xFFFEE7DC7B701202003800 centred 0x9ACBAB610FEB987D3898AC 0x0C 0x00 0xF5, []) := by
  decide +kernel

/-- V37 and V34: the byte order of `app_id` and `data`. -/
theorem test_decode_link :
    decode .downlink [0x08, 0x1B, 0x30, 0x34, 0x12, 0xEF, 0xBE, 0xAD, 0xDE, 0x33] =
      .ok (.dl 0x1B 0x30 0x1234 0xDEADBEEF 0x33, []) ∧
    decode .uplink frameU = .ok (.ul 0x02 0x10 0x0300 0x83480220 0xFC, []) := by decide +kernel

/-- The state codes of 10_state.md R12; codes 6 and 7 are refused (U4). -/
theorem test_decode_states :
    decode .stateCode [0] = .ok (.syncing, []) ∧
    decode .stateCode [1] = .ok (.readControl, []) ∧
    decode .stateCode [2] = .ok (.readDownlink, []) ∧
    decode .stateCode [3] = .ok (.waitWriteUplink, []) ∧
    decode .stateCode [4] = .ok (.writeUplink, []) ∧
    decode .stateCode [5] = .ok (.readUplink, []) ∧
    decode .stateCode [6] = .error .unreachableState ∧
    decode .stateCode [7] = .error .unreachableState ∧
    decode .stateCode [8] = .error .badSelector := by decide +kernel

/-- The operation numbers of R76, with operands as log 9 lays them out: the codec's. -/
theorem test_decode_codec_ops :
    decode .opNumber [0, 0xFF, 0x01] = .ok (.fold 0x01FF, []) ∧
    decode .opNumber [1, 0x12, 0x34] = .ok (.csum [0x12, 0x34], []) ∧
    decode .opNumber [2, 0x08, 0x02, 0x10] = .ok (.check 0x08 0x02 [0x10], []) ∧
    decode .opNumber [3, 0x0D, 0xFF] = .ok (.validateControl 0x0D 0xFF [], []) ∧
    decode .opNumber (4 :: frameD2) = .ok (.validateLink frameD2, []) ∧
    decode .opNumber [5, 0x02, 0x00, 0x03, 0x20, 0x02, 0x48, 0x83] =
      .ok (.buildUplink 0x02 { appId := 0x0300, data := 0x83480220 }, []) := by decide +kernel

/-- The operation numbers of R76: the channels'. -/
theorem test_decode_channel_ops :
    decode .opNumber [6, 0xE0, 0x03, 0x1F, 0xF8, 0xC0, 0x07, 0x3E, 0xF0, 0x81, 0x0F, 0x7C, 7] =
      .ok (.unpack11 centred 7, []) ∧
    decode .opNumber [7, 1, 0, 2, 0, 3, 0, 4, 0, 5, 0, 6, 0, 7, 0, 0, 8] =
      .ok (.pack11 1 2 3 4 5 6 7 2048, []) ∧
    decode .opNumber [8, 0xFF, 0x07] = .ok (.raw2pulse 2047, []) ∧
    decode .opNumber [9, 0xDC, 0x05, 0, 0] = .ok (.pulse2raw 1500, []) ∧
    decode .opNumber [10, 0, 0xE0, 0x03, 0x1F, 0xF8, 0xC0, 0x07, 0x3E, 0xF0, 0x81, 0x0F, 0x7C,
      0x00, 0x64] = .ok (.decodeChannels bodyA, []) := by decide +kernel

/-- The operation numbers of R76: the outbox's, the block's, `RESET`. -/
theorem test_decode_block_ops :
    decode .opNumber [11, 0x00, 0x03, 0x20, 0x02, 0x48, 0x83] =
      .ok (.hostPush { appId := 0x0300, data := 0x83480220 }, []) ∧
    decode .opNumber [12] = .ok (.pop, []) ∧
    decode .opNumber [13, 0, 0xE0, 0x03, 0x1F, 0xF8, 0xC0, 0x07, 0x3E, 0xF0, 0x81, 0x0F, 0x7C,
      0x00, 0x64] = .ok (.publish bodyA, []) ∧
    decode .opNumber [14] = .ok (.hostSnapshot, []) ∧
    decode .opNumber [15] = .ok (.reset, []) := by decide +kernel

/-- Illegal frame starts (R68) and operands out of range. -/
theorem test_decode_rejects :
    decode .control [0x0D, 0xFE] = .error .badHeader ∧
    decode .control [0x0E, 0xFF] = .error .badSize ∧
    decode .control (frameA.take 15) = .error .incomplete ∧
    decode .downlink [0x0D] = .error .notLinkSize ∧
    decode .uplink (frameU.take 9) = .error .incomplete ∧
    decode .opNumber [8, 0x00, 0x08] = .error .badOperand ∧
    decode .opNumber [16] = .error .badSelector := by decide +kernel

/-! ### The opcode table's words -/

/-- The frame rows' words are the selectors of R75 with zeros after them. -/
theorem test_table_frames :
    decodeTableWord 16 0x0DFF = some (.ctrl8 0 0 0 0) ∧
    decodeTableWord 16 0x18FF = some (.ctrl16 0 0 0 0 0) ∧
    decodeTableWord 16 0x23FF = some (.ctrl24 0 0 0 0 0 0) ∧
    decodeTableWord 16 0x0800 = some (.dl 0 0 0 0 0) := by decide +kernel

theorem test_table_codes :
    decodeTableWord 8 5 = some .readUplink ∧ decodeTableWord 4 5 = some (.buildUplink 0 .zero) ∧
    decodeTableWord 8 6 = some (.unpack11 0 0) ∧ decodeTableWord 8 15 = some .reset := by
  decide +kernel

/-- A placed word runs as the first instruction after reset: a control frame of zeros after its
header is valid (V23), a link frame of ten bytes of which the last nine are zero is not (V39), a
placed state runs its rule (V94), a placed operation answers (V1). -/
theorem test_placed_words_run :
    (nextOf (step (State.reset.withFetchWord 16 0x0DFF))).map (fun t => (t.state, t.events)) =
      some (.readDownlink, []) ∧
    (nextOf (step (State.reset.withFetchWord 16 0x18FF))).map (fun t => (t.state, t.events)) =
      some (.readDownlink, []) ∧
    (nextOf (step (State.reset.withFetchWord 16 0x0800))).map (fun t => (t.state, t.events)) =
      some (.syncing, [.downlinkFrameError .checksum]) ∧
    (nextOf (step (State.reset.withFetchWord 8 4))).map (fun t => (t.state, t.tx.length)) =
      some (.readUplink, 10) ∧
    (nextOf (step (State.reset.withFetchWord 4 0))).map State.ret = some (.byte 0x00) := by
  decide +kernel

/-! ### The codec -/

/-- V1, V4, V5, V7. -/
theorem test_fold :
    [0x0000, 0x00FF, 0x0100, 0x01FF, 0xFFFF, 0x23DC, 0x065E].map (fun a => retOf (.fold a) .reset) =
      [0x00, 0xFF, 0x01, 0x01, 0xFF, 0xFF, 0x64].map (fun b => some (.byte b)) := by decide +kernel

/-- V8, V10, V12, V13, V17, V19. -/
theorem test_csum :
    [[], List.replicate 8 0xFF, [0x01, 0x00], [0x01, 0xFF], [0x12, 0x34, 0x56, 0x78],
        [0x12, 0x34, 0x56, 0x79]].map (fun b => retOf (.csum b) .reset) =
      [0xFF, 0x00, 0xFE, 0xFE, 0xEA, 0xE9].map (fun b => some (.byte b)) := by decide +kernel

/-- V38: equality with 0x00, not a total that folds to 0xFF (40_codec.md R94). -/
theorem test_check :
    retOf (.check 0x08 0xFF (List.replicate 7 0xFF ++ [0x00])) .reset = some (.bool true) ∧
    retOf (.check 0x08 0xFF (List.replicate 7 0xFF ++ [0xFF])) .reset = some (.bool false) := by
  decide +kernel

/-- V20, V25, V26, V27, V31. -/
theorem test_validateControl :
    retOf (.validateControl 0x0D 0xFF (frameA.drop 2)) .reset = some (.control (some 1)) ∧
    retOf (.validateControl 0x0D 0xFE (frameA.drop 2)) .reset = some (.control none) ∧
    retOf (.validateControl 0x18 0xFF (frameA.drop 2)) .reset = some (.control none) ∧
    retOf (.validateControl 0x0D 0xFF (frameABad.drop 2)) .reset = some (.control none) ∧
    retOf (.validateControl 0x0D 0xFF (frameA.drop 2 ++ [0])) .reset = some (.control none) := by
  decide +kernel

/-- V20 under `CSUM_COVERS_SIZE`: the checksum is 0x8E. -/
theorem test_validateControl_size_covered :
    retOf (.validateControl 0x0D 0xFF (frameA.drop 2))
      { State.reset with params := { Params.initial with csumCoversSize := true } } =
        some (.control none) ∧
    retOf (.validateControl 0x0D 0xFF ((frameA.drop 2).dropLast ++ [0x8E]))
      { State.reset with params := { Params.initial with csumCoversSize := true } } =
        some (.control (some 1)) := by decide +kernel

/-- V32, V37 with and without `CHECK_PRIM_ON_RX`, a 9-byte sequence. -/
theorem test_validateLink :
    retOf (.validateLink frameD2) .reset = some (.link (some 0x02)) ∧
    retOf (.validateLink [0x08, 0x1B, 0x30, 0x34, 0x12, 0xEF, 0xBE, 0xAD, 0xDE, 0x33]) .reset =
      some (.link (some 0x1B)) ∧
    retOf (.validateLink [0x08, 0x1B, 0x30, 0x34, 0x12, 0xEF, 0xBE, 0xAD, 0xDE, 0x33])
      { State.reset with params := { Params.initial with checkPrimOnRx := true } } =
        some (.link none) ∧
    retOf (.validateLink (frameD2.take 9)) .reset = some (.link none) ∧
    retOf (.validateLink frameD2Bad) .reset = some (.link none) := by decide +kernel

/-- V32, V34. -/
theorem test_buildUplink :
    retOf (.buildUplink 0x02 .zero) .reset = some (.bytes frameD2) ∧
    retOf (.buildUplink 0x02 { appId := 0x0300, data := 0x83480220 }) .reset =
      some (.bytes frameU) := by decide +kernel

/-! ### Channels -/

/-- V48, channels 1 and 6; V45, channel 7. -/
theorem test_unpack11 :
    retOf (.unpack11 0x7D1FFC00713158F83DC008 1) .reset = some (.raw 1976) ∧
    retOf (.unpack11 0x7D1FFC00713158F83DC008 6) .reset = some (.raw 2047) ∧
    retOf (.unpack11 0x8000000000000000000000 7) .reset = some (.raw 1024) := by decide +kernel

/-- V48, V49d. -/
theorem test_pack11 :
    retOf (.pack11 8 1976 992 172 1811 0 2047 1000) .reset = some (.bytes
      [0x08, 0xC0, 0x3D, 0xF8, 0x58, 0x31, 0x71, 0x00, 0xFC, 0x1F, 0x7D]) ∧
    retOf (.pack11 2053 0 0 0 0 0 0 0) .reset =
      some (.bytes [0x05, 0, 0, 0, 0, 0, 0, 0, 0, 0, 0]) := by decide +kernel

/-- V50, V51, V52. -/
theorem test_raw2pulse :
    [0, 7, 8, 9, 10, 172, 991, 992, 993, 1811, 1975, 1976, 1977, 2047].map
        (fun r => retOf (.raw2pulse r) .reset) =
      [500, 500, 500, 501, 502, 666, 1498, 1500, 1501, 2332, 2498, 2500, 2500, 2500].map
        (fun p => some (.pulse p)) := by decide +kernel

/-- V53. -/
theorem test_pulse2raw :
    [0, 499, 500, 501, 1000, 1499, 1500, 1501, 2000, 2499, 2500, 2501].map
        (fun p => retOf (.pulse2raw p) .reset) =
      [8, 8, 8, 8, 500, 991, 992, 992, 1484, 1975, 1976, 1976].map
        (fun r => some (.raw r)) := by decide +kernel

/-- V22: both clamps, three groups. -/
theorem test_decodeChannels :
    retOf (.decodeChannels
      { groups := .three 0xFFFEE7DC7B701202003800 centred 0x9ACBAB610FEB987D3898AC
        status := 0x0C, quality := 0x00 }) .reset =
    some (.channels ([500, 500, 500, 501, 2498, 2500, 2500, 2500] ++ List.replicate 8 1500 ++
      [666, 2332, 1000, 2000, 750, 2250, 1250, 1750])) := by decide +kernel

/-- V20 as the sender builds it (41_channels.md R116), and V55. -/
theorem test_encodeChannels :
    encodeChannels Params.initial (List.replicate 8 1500) 1 0x00 0x64 = frameA ∧
    [500, 501, 625, 1499, 1500, 2499, 2500].map (fun p => raw2pulse (pulse2raw p)) =
      [500, 500, 625, 1498, 1500, 2498, 2500] := by decide +kernel

/-! ### The outbox -/

/-- V71, V72. -/
theorem test_hostPush :
    (nextOf (exec (.hostPush { appId := 1, data := 2 }) (ring 0 0))).map
      (fun t => (t.slots[0], t.head, t.tail)) =
        some ({ appId := 1, data := 2 }, 1, 0) ∧
    (nextOf (exec (.hostPush { appId := 1, data := 2 }) (ring 8 0))).map
      (fun t => (t.slots[0], t.head, t.tail, t.events)) =
        some ({ appId := 1, data := 2 }, 9, 1, [.outboxOverflow]) := by decide +kernel

/-- V70, V74. -/
theorem test_pop :
    retOf .pop (ring 0 0) = some (.item none) ∧
    (nextOf (exec .pop { ring 3 2 with
      slots := State.reset.slots.set 2 { appId := 1, data := 2 } })).map
        (fun t => (t.ret, t.head, t.tail)) =
      some (.item (some { appId := 1, data := 2 }), 3, 3) := by decide +kernel

/-! ### The shared block -/

/-- V20 published from reset: the block of V101, `reserved` as it was. -/
theorem test_publish :
    (nextOf (exec (.publish bodyA) .reset)).map (fun t =>
      [loadField t .generation, loadField t .flags, loadField t .quality,
        loadField t .channelCount, loadField t (.channel 7), loadField t (.channel 8),
        (Memory.read t.mem 0x1007).toNat]) = some [1, 0x00, 0x64, 8, 1500, 0, 0] := by
  decide +kernel

/-- The generation wraps from 2^32 - 1 to 0 (44_shared_block.md R184); its four bytes lie least
significant first (20_memory.md R44). -/
theorem test_publish_wraps :
    (nextOf (exec (.publish bodyA) (memWrite 0x1000 4 0xFFFFFFFF .reset))).map
      (fun t => loadField t .generation) = some 0 ∧
    (nextOf (exec (.publish bodyA) (memWrite 0x1000 4 0xFF .reset))).map
      (fun t => (Memory.read t.mem 0x1000, Memory.read t.mem 0x1001)) = some (0, 1) := by
  decide +kernel

/-- V100, V101. -/
theorem test_hostSnapshot :
    (nextOf (exec .hostSnapshot .reset)).map (fun t => (t.ret, t.snap)) =
      some (.poll .noChange, none) ∧
    (nextOf (exec .hostSnapshot (publish frameA 1 .reset))).map
      (fun t => (t.ret, t.lastSeen, t.snap)) =
      some (.poll .newData, 1, some { generation := 1, flags := 0x00, quality := 0x64
                                      channelCount := 8, channels := Vector.ofFn fun i =>
                                        if i.val < 8 then 1500 else 0 }) := by decide +kernel

/-- V104: inequality, not "greater than". V105: the generation moved between its two loads. -/
theorem test_hostSnapshot_wrap_and_retry :
    retOf .hostSnapshot { State.reset with lastSeen := 0xFFFFFFFF } = some (.poll .newData) ∧
    (nextOf (exec .hostSnapshot { memWrite 0x1000 4 2 .reset with
      copy := some { g1 := 1, pending := [], partialCopy := blankCopy 1 } })).map
        (fun t => (t.ret, t.lastSeen, t.events, t.snap)) =
      some (.poll .retry, 0, [.snapshotRetry], none) := by decide +kernel

/-! ### The state machine -/

/-- V81, V82, V83, V84. -/
theorem test_syncing :
    (nextOf (exec .syncing (inState .syncing [0x0D, 0xFF, 0xE0]))).map State.rx =
      some [0x0D, 0xFF, 0xE0] ∧
    (nextOf (exec .syncing (inState .syncing [0x0D, 0xFE, 0x01]))).map
      (fun t => (t.rx, t.events)) = some ([0x01], [.syncLoss]) ∧
    (nextOf (exec .syncing (inState .syncing frameABad))).map (fun t => (t.rx, t.events)) =
      some (frameABad.drop 2, [.syncLoss]) ∧
    (nextOf (exec .syncing (inState .syncing frameA))).map
      (fun t => (t.rx, t.events, t.state, loadField t .generation)) =
      some ([], [], .readDownlink, 1) := by decide +kernel

/-- V85, V86. -/
theorem test_readControl :
    (nextOf (exec .readControl (inState .readControl frameABad))).map
      (fun t => (t.rx, t.events, t.state, loadField t .generation)) =
      some (frameABad, [.controlFrameError], .syncing, 0) ∧
    (nextOf (exec .readControl (inState .readControl frameD2))).map
      (fun t => (t.rx, t.events, t.state)) =
      some (frameD2, [.controlFrameError], .syncing) := by decide +kernel

/-- V87, V88. -/
theorem test_readDownlink :
    (nextOf (exec .readDownlink { inState .readDownlink frameD2 with cyc := 1000 })).map
      (fun t => (t.rx, t.tDl, t.state)) = some ([], 1000, .waitWriteUplink) ∧
    (nextOf (exec .readDownlink (inState .readDownlink frameD5))).map
      (fun t => (t.rx, t.state)) = some ([], .readUplink) := by decide +kernel

/-- V89, V90. -/
theorem test_readDownlink_errors :
    (nextOf (exec .readDownlink (inState .readDownlink [0x0D]))).map
      (fun t => (t.rx, t.events, t.state)) =
      some ([0x0D], [.downlinkFrameError .shape], .syncing) ∧
    (nextOf (exec .readDownlink (inState .readDownlink frameD2Bad))).map
      (fun t => (t.rx, t.events, t.state)) =
      some (frameD2Bad, [.downlinkFrameError .checksum], .syncing) := by decide +kernel

/-- V91, V92. -/
theorem test_waitWriteUplink :
    [1499, 1500, 4000, 4001].map (fun c => (nextOf (exec .waitWriteUplink
        { inState .waitWriteUplink [] with tDl := 1000, cyc := c })).map State.state) =
      [some .waitWriteUplink, some .writeUplink, some .writeUplink, some .readControl] ∧
    (nextOf (exec .waitWriteUplink { inState .waitWriteUplink [] with
      tDl := 0xFFFFFF00, cyc := 0x00000200 })).map State.state = some .writeUplink := by
  decide +kernel

/-- V93: an empty outbox answers with the zero item; program P2: a full one pops. -/
theorem test_waitWriteUplink_builds :
    (nextOf (exec .waitWriteUplink { inState .waitWriteUplink [] with cyc := 500 })).map
      (fun t => (t.txbuf.toList, t.tail)) = some (frameD2, 0) ∧
    (nextOf (exec .waitWriteUplink { inState .waitWriteUplink [] with
      cyc := 500, head := 1
      slots := State.reset.slots.set 0 { appId := 0x0300, data := 0x83480220 } })).map
      (fun t => (t.txbuf.toList, t.tail)) = some (frameU, 1) := by decide +kernel

/-- V94. -/
theorem test_writeUplink :
    (nextOf (exec .writeUplink { inState .writeUplink [] with
      tx := [0x01], txbuf := buildUplink Params.initial 0x02
        { appId := 0x0300, data := 0x83480220 } })).map (fun t => (t.tx, t.state)) =
      some (0x01 :: frameU, .readUplink) := by decide +kernel

/-- V96, V97, V98. -/
theorem test_readUplink :
    (nextOf (exec .readUplink (inState .readUplink [0x0D]))).map
      (fun t => (t.rx, t.events, t.state)) = some ([0x0D], [], .readControl) ∧
    (nextOf (exec .readUplink (inState .readUplink frameU))).map
      (fun t => (t.rx, t.events, t.state)) = some ([], [], .readControl) ∧
    (nextOf (exec .readUplink (inState .readUplink
      [0x08, 0x02, 0x10, 0x00, 0x00, 0x40, 0x00, 0x00, 0x00, 0xED]))).map
      (fun t => (t.rx.length, t.events, t.state)) =
      some (10, [.uplinkFrameError], .syncing) := by decide +kernel

/-! ### The frame rows -/

/-- V84 as the row `CTRL8`; V83 as the row with the wrong checksum; a frame that is not there. -/
theorem test_ctrl8_row :
    (nextOf (exec (.ctrl8 centred 0x00 0x64 0x9B) (inState .syncing frameA))).map
      (fun t => (t.rx, t.state, loadField t .quality)) = some ([], .readDownlink, 0x64) ∧
    (nextOf (exec (.ctrl8 centred 0x00 0x64 0x9C) (inState .syncing frameABad))).map
      (fun t => (t.rx.length, t.state)) = some (14, .syncing) ∧
    nextOf (exec (.ctrl8 centred 0x00 0x64 0x9B) .reset) = none := by decide +kernel

/-- V21 as the row `CTRL16`, V22 as the row `CTRL24`, in `ReadControl`. -/
theorem test_ctrl16_ctrl24_rows :
    (nextOf (exec (.ctrl16 0x6CABA9379F42F23F841808 0xE7BB0B23DCCAA335A2DBE0 0x03 0x5A 0x3F)
      (inState .readControl (controlBytes
        (.two 0x6CABA9379F42F23F841808 0xE7BB0B23DCCAA335A2DBE0) 0x03 0x5A 0x3F)))).map
      (fun t => (t.state, loadField t .channelCount, loadField t (.channel 15))) =
      some (.readDownlink, 16, 2375) ∧
    (nextOf (exec (.ctrl24 0xFFFEE7DC7B701202003800 centred 0x9ACBAB610FEB987D3898AC 0x0C 0x00 0xF5)
      (inState .readControl (controlBytes
        (.three 0xFFFEE7DC7B701202003800 centred 0x9ACBAB610FEB987D3898AC) 0x0C 0x00 0xF5)))).map
      (fun t => (t.state, loadField t .channelCount, loadField t (.channel 23))) =
      some (.readDownlink, 24, 1750) := by decide +kernel

/-- V87 as the row `DL`, V97 as the row `UL`. -/
theorem test_link_rows :
    (nextOf (exec (.dl 0x02 0x10 0 0 0xED) (inState .readDownlink frameD2))).map
      (fun t => (t.rx, t.state)) = some ([], .waitWriteUplink) ∧
    (nextOf (exec (.ul 0x02 0x10 0x0300 0x83480220 0xFC) (inState .readUplink frameU))).map
      (fun t => (t.rx, t.state)) = some ([], .readControl) := by decide +kernel

/-! ### Reset and the moves -/

/-- 70_reset_and_hazards.md R250, R252 (b): the block zeroed, the byte after it kept. -/
theorem test_reset :
    (nextOf (exec .reset { memWrite 0x1068 1 7 (publish frameA 1 .reset) with
      state := .writeUplink, rx := [1], tx := [2], head := 3, tail := 1 })).map
      (fun t => (t.state, t.rx ++ t.tx, [t.head, t.tail], t.mem)) =
      some (.syncing, [], [0, 0], [(0x1068, 7)]) := by decide +kernel

/-- 42_link_fsm.md R135, R136: a byte of noise, the oldest byte not yet echoed, the counter. -/
theorem test_moves :
    (nextOf (step (withMove (.line 0x55)))).map State.rx = some [0x55] ∧
    (nextOf (step { withMove .echo with tx := [0x08, 0x02], echoed := 1 })).map
      (fun t => (t.rx, t.echoed)) = some ([0x02], 2) ∧
    (nextOf (step { withMove (.tick 2) with cyc := 0xFFFFFFFF })).map State.cyc = some 1 := by
  decide +kernel

/-- The status flags of 30_encoding.md R67 in V22 and V21. -/
theorem test_flags :
    frameLost Params.initial 0x0C = true ∧ failsafeActive Params.initial 0x0C = true ∧
    digitalCh17 Params.initial 0x03 = true ∧ digitalCh18 Params.initial 0x03 = true ∧
    frameLost Params.initial 0x03 = false := by decide +kernel

/-! ### Witnesses: hypotheses met

One theorem for each statement that has hypotheses, a state and operands for each clause. -/

/-- O1. -/
theorem witness_roundTrip :
    WellFormed (.pack11 65535 65535 65535 65535 65535 65535 65535 65535) = true ∧
    WellFormed (.pulse2raw 4294967295) = true ∧
    WellFormed (.ul 0xFF 0xFF 0xFFFF 0xFFFFFFFF 0x00) = true ∧
    placeOf (.ul 0xFF 0xFF 0xFFFF 0xFFFFFFFF 0x00) ≠ .opNumber ∧
    placeOf .readUplink ≠ .opNumber := by decide +kernel

/-- O2. -/
theorem witness_spellBack :
    decode .control (frameA ++ [0x08]) = .ok (.ctrl8 centred 0x00 0x64 0x9B, [0x08]) ∧
    decode .downlink frameD2 = .ok (.dl 0x02 0x10 0 0 0xED, []) ∧
    decode .uplink frameU = .ok (.ul 0x02 0x10 0x0300 0x83480220 0xFC, []) ∧
    decode .stateCode [5, 9] = .ok (.readUplink, [9]) := by decide +kernel

/-- O4, O5: a frame to fetch, on a move and with none left; no frame; no position; a call. -/
theorem witness_fetch :
    (Params.initial.linkReady = true ∧ paramsOk Params.initial = true) ∧
    (framePosition .syncing = some .control ∧
      decode .control frameA = .ok (.ctrl8 centred 0x00 0x64 0x9B, []) ∧
      ({ inState .syncing frameA with agenda := [.lsm] } : State).agenda = [.lsm]) ∧
    (framePosition .readUplink = some .uplink ∧
      decode .uplink frameU = .ok (.ul 0x02 0x10 0x0300 0x83480220 0xFC, []) ∧
      (inState .readUplink frameU).agenda = []) ∧
    (framePosition .readDownlink = some .downlink ∧
      decode .downlink [0x0D] = .error .notLinkSize) ∧
    framePosition .writeUplink = none ∧
    (placeOf .pop = .opNumber ∧ (withMove (.call .pop)).agenda = [.call .pop]) := by
  decide +kernel

/-- O6: the last byte not yet echoed, and none left; the least tick. -/
theorem witness_moves :
    ({ withMove .echo with tx := [0x08], echoed := 0 } : State).tx[0]? = some 0x08 ∧
    ({ withMove .echo with tx := [0x08], echoed := 1 } : State).tx.length ≤ 1 ∧
    ({ Params.initial with lineEcho := false } : Params).lineEcho = false ∧
    Params.initial.lineEcho = true ∧ 0 < 1 ∧
    (withMove (.line 0xFF)).agenda = [.line 0xFF] ∧ (withMove (.tick 1)).agenda = [.tick 1] ∧
    (withMove (.tick 0)).agenda = [.tick 0] ∧
    (withMove (.host (.push .zero))).agenda = [.host (.push .zero)] := by decide +kernel

/-- O7: each way a configuration fails, at its boundary. -/
theorem witness_refusals :
    ({ Params.initial with linkReady := false } : Params).linkReady = false ∧
    ({ Params.initial with scbBase := 4097 } : Params).scbBase % 4 ≠ 0 ∧
    (({ Params.initial with tMin := 3001 } : Params).tMax = 3000 ∧ 3000 < 3001) ∧
    2 ^ 31 ≤ ({ Params.initial with tMax := 2147483648 } : Params).tMax ∧
    (withMove (.call .syncing)).agenda = [.call .syncing] ∧ placeOf .syncing ≠ .opNumber := by
  decide +kernel

/-- O10: two bytes, the fewest, and V32. -/
theorem witness_check :
    (0x08 : Byte) :: 0xFF :: [] = [0x08] ++ [0xFF] ∧
    (0x08 : Byte) :: 0x02 :: frameD2.drop 2 = frameD2.take 9 ++ [0xED] := by decide +kernel

/-- O11, O12: both directions happen. -/
theorem witness_validate :
    validateControl Params.initial frameA = some 1 ∧ ShapeOf 0x0D 0xFF 1 ∧
    frameA.length = 11 * 1 + 5 ∧ check Params.initial frameA = true ∧
    validateControl Params.initial frameABad = none ∧
    validateLink Params.initial frameD2 = some 0x02 ∧
    validateLink Params.initial frameD2Bad = none := by
  refine ⟨by decide +kernel, ⟨rfl, .inl ⟨rfl, rfl⟩⟩, ?_⟩
  decide +kernel

/-- O13: the body of V32. -/
theorem witness_body :
    linkBody 0x02 0x10 0 0 = [0x02, 0x10, 0, 0, 0, 0, 0, 0] := by decide +kernel

/-- O16: 257 bytes, the most; a difference that shows and one that does not (V13). -/
theorem witness_oneByte :
    (List.replicate 256 (0xFF : Byte) ++ 0xFF :: []).length ≤ 257 ∧ (0xFF : Byte) ≠ 0xFE ∧
    ([0x01] ++ (0x00 : Byte) :: []).length ≤ 257 ∧ (0x00 : Byte) ≠ 0xFF ∧
    (∃ b ∈ ([0x01] ++ [] : List Byte), b ≠ 0) := by decide +kernel

/-- O17: V17 and V18. -/
theorem witness_order : [0x12, 0x34, 0x56, 0x78].Perm ([0x34, 0x12, 0x56, 0x78] : List Byte) := by
  decide +kernel

/-- O19, O23: the last byte, the last channel. -/
theorem witness_bounds : 10 < 11 ∧ 23 < 24 := by decide

/-- O22: the ends of the ranges. -/
theorem witness_scaling :
    8 ≤ 8 ∧ 1976 ≤ 1976 ∧ (8 ≤ 8 ∧ 8 < 9 ∧ 9 ≤ 1976) ∧ (8 ≤ 1975 ∧ 1975 < 1976) ∧
    (8 ≤ 1976 ∧ 1976 ≤ 1976) := by decide +kernel

/-- O24: the ends of the ranges. -/
theorem witness_encodeChannels :
    (1 ≤ 1 ∧ 1 ≤ 3 ∧ 7 < 8 * 1) ∧ (1 ≤ 3 ∧ 3 ≤ 3 ∧ 23 < 8 * 3) ∧ 500 ≤ 500 ∧ 2500 ≤ 2500 := by
  decide +kernel

/-- O25 to O28: full across a wrap of the indices, seven held, empty, one held. -/
theorem witness_outbox :
    (ring 3 251).head - (ring 3 251).tail = 8 ∧ (ring 7 0).head - (ring 7 0).tail ≠ 8 ∧
    (ring 200 200).head = (ring 200 200).tail ∧ (ring 0 255).head ≠ (ring 0 255).tail ∧
    outboxCount (ring 3 251) ≤ 8 ∧ outboxCount (ring 200 200) ≤ 8 := by decide +kernel

/-- O29: the bytes beside the block, and `reserved`. -/
theorem witness_untouched :
    Untouched .reset 0x0FFF ∧ Untouched .reset 0x1068 ∧ Untouched .reset 0x1007 :=
  ⟨.inl (by decide), .inr (.inl (by decide)), .inr (.inr (by decide))⟩

/-- O30: a plan's events with no store, with 27 stores and a step of HOST among them; an accepted
frame, V20 with a byte after it. -/
theorem witness_publishOrder :
    storesIn [.host (.load 0)] ≤ 27 ∧
    storesIn (List.replicate 13 (.store 0) ++ .host (.load 0) :: List.replicate 14 (.store 1)) =
      27 ∧
    (inState .syncing (frameA ++ [0x08])).rx = controlBytes bodyA.groups bodyA.status
      bodyA.quality 0x9B ++ [0x08] ∧
    check Params.initial (controlBytes bodyA.groups bodyA.status bodyA.quality 0x9B) = true ∧
    (nextOf (exec (.publish bodyA) (inState .syncing [0x08]))).isSome = true := by
  decide +kernel

/-- O30: a publish that answers, with stores alone inside it. -/
theorem witness_publish :
    (∃ t, exec (.publish bodyA) { State.reset with plans := [[.store 5]] } = .next t) ∧
    Undisturbed { State.reset with plans := [[.store 5]] } := by
  refine ⟨⟨_, rfl⟩, fun m hm => ⟨5, by simpa [Undisturbed] using hm⟩⟩

/-- An attempt with two fields left. -/
def copying : Copy := { g1 := 0, pending := [.flags, .channel 23], partialCopy := blankCopy 0 }

/-- O31, O32, O33: no attempt, with the generation seen and not; an attempt, with the generation
moved and not; a pick past its two fields, a field loaded before, and none left. -/
theorem witness_snapshot :
    (State.reset.copy = none ∧ loadField .reset .generation = State.reset.lastSeen.toNat) ∧
    loadField { State.reset with lastSeen := 0xFFFFFFFF } .generation ≠
      ({ State.reset with lastSeen := 0xFFFFFFFF } : State).lastSeen.toNat ∧
    ({ State.reset with copy := some copying } : State).copy = some copying ∧
    loadField { State.reset with copy := some copying } .generation = copying.g1.toNat ∧
    loadField { memWrite 0x1000 4 1 .reset with copy := some copying } .generation ≠
      copying.g1.toNat ∧
    (copying.pending ≠ [] ∧ copying.pending[5 % copying.pending.length]? = some (.channel 23)) ∧
    (Field.quality ∉ copying.pending ∧ Field.quality ≠ .generation) ∧
    ({ copying with pending := [] } : Copy).pending = [] ∧
    (withMove (.host (.load 1))).agenda = [.host (.load 1)] := by decide +kernel

/-- O34: every load after the stores, the two of P6 before them, every load before them; a
generation HOST has not seen, no attempt. -/
theorem witness_torn :
    (0 ≤ 27 ∧ 2 ≤ 27 ∧ 27 ≤ 27) ∧ (memWrite 0x1000 4 1 .reset).copy = none ∧
    loadField (memWrite 0x1000 4 1 .reset) .generation ≠
      (memWrite 0x1000 4 1 .reset).lastSeen.toNat ∧
    dataFields.take 2 = [.flags, .quality] ∧ storesIn (overlapPlan 2) = 28 := by decide +kernel

/-- O35: a load, a push, a poll. -/
theorem witness_host :
    (∃ t, step (withMove (.host (.load 0))) = .next t) ∧
    (∃ t, step (withMove (.call (.hostPush .zero))) = .next t) ∧
    (∃ t, step (withMove (.call .hostSnapshot)) = .next t) :=
  ⟨exists_next (by decide +kernel), exists_next (by decide +kernel),
    exists_next (by decide +kernel)⟩

/-- O36, O43: V20 whole with bytes after it. -/
theorem witness_accept :
    (inState .syncing (frameA ++ [0x08])).rx =
      controlBytes (.one centred) 0x00 0x64 0x9B ++ [0x08] ∧
    check Params.initial (controlBytes (.one centred) 0x00 0x64 0x9B) = true ∧
    (inState .syncing (frameA ++ [0x08])).state = .syncing := by decide +kernel

/-- O37, O38: one byte; a shape that fails; 15 of 16 bytes; 16 bytes that fail the checksum. -/
theorem witness_noAccept :
    [(0x0D : Byte)].length < 2 ∧ (∀ G, ¬ ShapeOf 0x0D 0xFE G) ∧ ShapeOf 0x0D 0xFF 1 ∧
    (frameA.take 15).length < 11 * 1 + 5 ∧ 11 * 1 + 5 ≤ frameABad.length ∧
    check Params.initial (frameABad.take (11 * 1 + 5)) = false := by
  refine ⟨by decide, (controlShape_eq_none _ _).1 (by decide), ⟨rfl, .inl ⟨rfl, rfl⟩⟩, ?_⟩
  decide +kernel

/-- O39, O42: a first byte that is no link size; nine bytes; ten that fail; a poll of this node
and one of another. -/
theorem witness_link :
    (0x0D : Byte) ≠ 0x08 ∧ (frameD2.take 9 = 0x08 :: (frameD2.take 9).tail ∧
      (frameD2.take 9).length < 10) ∧
    (frameD2Bad.length = 10 ∧ frameD2Bad[0]? = some 0x08 ∧
      validateLink Params.initial frameD2Bad = none) ∧
    (frameD2.length = 10 ∧ frameD2[0]? = some 0x08 ∧
      validateLink Params.initial frameD2 = some Params.initial.nodeId) ∧
    (validateLink Params.initial frameD5 = some 0x05 ∧ 0x05 ≠ Params.initial.nodeId) := by
  decide +kernel

/-- O40: the two bounds and the values beside them; an outbox empty and not (V91). -/
theorem witness_window :
    ((1499 - 1000 : Word).toNat < Params.initial.tMin) ∧
    (Params.initial.tMin ≤ (1500 - 1000 : Word).toNat ∧
      (1500 - 1000 : Word).toNat ≤ Params.initial.tMax) ∧
    (Params.initial.tMin ≤ (4000 - 1000 : Word).toNat ∧
      (4000 - 1000 : Word).toNat ≤ Params.initial.tMax) ∧
    (Params.initial.tMin ≤ (4001 - 1000 : Word).toNat ∧
      Params.initial.tMax < (4001 - 1000 : Word).toNat) ∧
    (ring 0 0).head = (ring 0 0).tail ∧ (ring 1 0).head ≠ (ring 1 0).tail := by decide +kernel

/-- O43, O44: V27 in `Syncing` and in `ReadControl`; V20 where a link frame is expected. -/
theorem witness_controlRows :
    (inState .readControl frameABad).rx = controlBytes (.one centred) 0x00 0x64 0x9C ++ [] ∧
    check Params.initial (controlBytes (.one centred) 0x00 0x64 0x9C) = false ∧
    (inState .readDownlink frameA).rx = controlBytes (.one centred) 0x00 0x64 0x9B ++ [] ∧
    (inState .readUplink frameA).state = .readUplink := by decide +kernel

/-- O45, O46: V32, V33, V90 in `ReadDownlink`; V34 and V90 in `ReadUplink`. -/
theorem witness_linkRows :
    (inState .readDownlink frameD2).rx = linkBytes 0x02 0x10 0 0 0xED ++ [] ∧
    validateLink Params.initial (linkBytes 0x02 0x10 0 0 0xED) = some 0x02 ∧
    validateLink Params.initial (linkBytes 0x05 0x10 0 0 0xEA) = some 0x05 ∧
    validateLink Params.initial (linkBytes 0x02 0x10 0 0 0xEE) = none ∧
    (inState .readUplink frameU).rx = linkBytes 0x02 0x10 0x0300 0x83480220 0xFC ++ [] ∧
    validateLink Params.initial (linkBytes 0x02 0x10 0x0300 0x83480220 0xFC) = some 0x02 := by
  decide +kernel

/-- O47: a frame that is there and one that is not. -/
theorem witness_frameRows :
    placeOf (.ctrl8 centred 0x00 0x64 0x9B) = .control ∧
    encode (.ctrl8 centred 0x00 0x64 0x9B) <+: (inState .waitWriteUplink frameA).rx ∧
    placeOf (.ul 0x02 0x10 0 0 0xED) = .uplink ∧
    ¬ encode (.ul 0x02 0x10 0 0 0xED) <+: (inState .waitWriteUplink frameA).rx := by
  decide +kernel

/-- O49: the first and the last byte of the block, and the bytes beside it. -/
theorem witness_resetBytes :
    (Params.initial.scbBase ≤ 0x1000 ∧ 0x1000 < Params.initial.scbBase + 104) ∧
    (Params.initial.scbBase ≤ 0x1067 ∧ 0x1067 < Params.initial.scbBase + 104) ∧
    0x0FFF < Params.initial.scbBase ∧ Params.initial.scbBase + 104 ≤ 0x1068 := by decide +kernel

/-- O50: a canonical memory with a cell in it, and a step from it. -/
theorem witness_memoryCanonical :
    MemoryCanonical { inState .syncing frameA with mem := [(0x1000, 0x01)] } ∧
    ∃ t, step { inState .syncing frameA with mem := [(0x1000, 0x01)] } = .next t :=
  ⟨by unfold MemoryCanonical; decide +kernel, exists_next (by decide +kernel)⟩

/-- O52: a legal block with a frame to accept. -/
theorem witness_blockLegal :
    BlockLegal (inState .syncing frameA) ∧ ∃ t, step (inState .syncing frameA) = .next t :=
  ⟨⟨fun i => .inl rfl, by decide +kernel, rfl, fun _ h => (nomatch h), fun _ h => (nomatch h)⟩,
    exists_next (by decide +kernel)⟩

/-- O54: V32 about to be sent. -/
theorem witness_uplinkLegal :
    UplinkLegal { inState .writeUplink [] with txbuf := buildUplink Params.initial 0x02 .zero } ∧
    ∃ t, step { inState .writeUplink [] with
      txbuf := buildUplink Params.initial 0x02 .zero } = .next t :=
  ⟨⟨⟨[], rfl, fun _ h => (nomatch h)⟩, fun _ => ⟨rfl, by decide +kernel, rfl⟩,
    by decide +kernel, Nat.le_refl _⟩, exists_next (by decide +kernel)⟩

/-- O56, O57, O58: a step that answers: an acceptance, a drop of two bytes, a call. -/
theorem witness_steps :
    (∃ t, step (inState .syncing frameA) = .next t) ∧
    (∃ t, step (inState .syncing frameABad) = .next t) ∧
    (∃ t, step (withMove (.call .reset)) = .next t) :=
  ⟨exists_next (by decide +kernel), exists_next (by decide +kernel), ⟨_, rfl⟩⟩

/-- O59: V83, with no step of HOST inside a publish. -/
theorem witness_oneEvent :
    Undisturbed (inState .syncing frameABad) ∧
    ∃ t, exec (stateRow .syncing) (inState .syncing frameABad) = .next t :=
  ⟨fun _ h => (nomatch h), ⟨_, rfl⟩⟩

/-- O60: program P1: the garbage `00 00`, then frame A. -/
theorem witness_resync :
    (∀ x ∈ [((0x00 : Byte), (0x00 : Byte))], ∀ G, ¬ ShapeOf x.1 x.2 G) ∧
    (inState .syncing ([0x00, 0x00] ++ frameA)).rx =
      [((0x00 : Byte), (0x00 : Byte))].flatMap (fun x => [x.1, x.2]) ++
        controlBytes (.one centred) 0x00 0x64 0x9B ++ [] ∧
    check Params.initial (controlBytes (.one centred) 0x00 0x64 0x9B) = true ∧
    (inState .syncing ([0x00, 0x00] ++ frameA)).agenda = [] := by
  refine ⟨fun x hx => ?_, by decide +kernel⟩
  rw [List.mem_singleton.1 hx]
  exact (controlShape_eq_none _ _).1 (by decide)

end Sys2Proof.Tests
end

section
/-! The refusals of a step (00_scope.md R6; 93_implementation_defined.md U6, U21; log 19). -/

namespace Sys2Proof.Machine

open Sys2Proof

/-- The configurations without a meaning (00_scope.md R6, 20_memory.md R45, U6). -/
theorem paramsOk_eq_false_iff {p : Params} :
    paramsOk p = false ↔ p.scbBase % 4 ≠ 0 ∨ p.tMax < p.tMin ∨ 2 ^ 31 ≤ p.tMax := by
  simp only [paramsOk, Bool.and_eq_false_iff, decide_eq_false_iff_not, Nat.not_le, Nat.not_lt,
    or_assoc, ne_eq]

/-- The link or the memory is unavailable (U21). -/
theorem step_of_not_ready {s : State} (hl : s.params.linkReady = false) :
    step s = .refused .initUnavailable := by
  rw [step, stepMachine, if_pos (by simp [hl])]

/-- The machine is ready, its configuration has no meaning (U6). -/
theorem step_of_not_paramsOk {s : State} (hl : s.params.linkReady = true)
    (hp : paramsOk s.params = false) : step s = .refused .badConfiguration := by
  rw [step, stepMachine, if_neg (by simp [hl]), if_pos (by simp [hp])]

/-- A frame row or a state row cannot be called (log 19). -/
theorem runMove_call_of_not_operation {i : Instr} (hi : placeOf i ≠ .opNumber) (s : State) :
    runMove (.call i) s = .refused .notAnOperation := by
  rw [runMove, if_neg (by simpa [isOperation] using hi)]

/-- Settles O7, one refusal of the step for each clause. -/
theorem stepRefusesWhatTheSpecRefuses : Obligations.StepRefusesWhatTheSpecRefuses := by
  intro s
  refine ⟨step_of_not_ready, fun hl hbad => ?_, fun i ms hl hp ha hi => ?_⟩
  · exact step_of_not_paramsOk hl (paramsOk_eq_false_iff.2 hbad)
  · rw [step_move hl hp ha]
    exact runMove_call_of_not_operation hi _

end Sys2Proof.Machine
end

section
/-! The channel block and its copies stay legal (10_state.md R19, R20, R21, R31, R34;
44_shared_block.md R185). HOST's loads change copies and no memory, the LSM's stores change memory
and no copy, so each keeps `BlockLegal`, and with them every interleaving inside a publish. -/

namespace Sys2Proof.Machine

open Sys2Proof

/-! ### Legal values of a field -/

/-- A value this field of a legal block may hold (10_state.md R19, R21). -/
def Field.Legal : Field → Nat → Prop
  | .generation, _ => True
  | .flags, _ => True
  | .quality, _ => True
  | .channelCount, v => v ∈ [0, 8, 16, 24]
  | .channel _, v => UnsetOrPulse v

theorem Field.legal_zero (f : Field) : f.Legal 0 := by
  cases f with
  | channel i => exact .inl rfl
  | channelCount => exact List.mem_cons_self
  | _ => exact trivial

/-- A legal value fits its field: a store at the field's width keeps it. -/
theorem Field.Legal.mod_width {f : Field} {v : Nat} (h : f.Legal v) :
    f.Legal (v % 256 ^ f.width) := by
  cases f with
  | channel i => exact (Nat.mod_eq_of_lt (UnsetOrPulse.lt h)).symm ▸ h
  | channelCount =>
    have hlt : v < 256 := (show ∀ n ∈ [0, 8, 16, 24], n < 256 by decide) v h
    exact (Nat.mod_eq_of_lt hlt).symm ▸ h
  | _ => exact trivial

/-! ### Stores of a publish -/

/-- Every store of a publish is legal (44_shared_block.md R182, R183). -/
theorem publishStores_legal (f : List Byte) (gs : Groups) :
    ∀ w ∈ publishStores f gs.count, w.1.Legal w.2 := by
  intro w hw
  obtain ⟨fd, -, rfl⟩ := List.mem_map.1 hw
  cases fd with
  | channel i => exact channelValue_legal f gs.count i.val
  | channelCount =>
    show Config.groupChannels * gs.count ∈ [0, 8, 16, 24]
    obtain hG | hG | hG := gs.count_cases <;> rw [hG] <;> decide
  | _ => exact trivial

/-! ### Channels of a copy -/

/-- Every channel of the copy is UNSET or a pulse (10_state.md R21). -/
def Snapshot.ChannelsLegal (c : Snapshot) : Prop := ∀ i : Fin 24, UnsetOrPulse c.channels[i].toNat

/-- The model's zeros in a copy without loads are UNSET (log 23). -/
theorem blankCopy_channelsLegal (g1 : Word) : (blankCopy g1).ChannelsLegal := fun i =>
  .inl (by simp [blankCopy])

/-- A legal value put into a legal copy. -/
theorem Snapshot.ChannelsLegal.copyField {c : Snapshot} (h : c.ChannelsLegal) {f : Field} {v : Nat}
    (hv : f.Legal v) : (copyField f v c).ChannelsLegal := by
  cases f with
  | channel i =>
    intro j
    by_cases hij : i.val = j.val
    · have hset : (Machine.copyField (.channel i) v c).channels[j] = BitVec.ofNat 32 v := by
        simp [Machine.copyField, hij]
      rw [hset, BitVec.toNat_ofNat, Nat.mod_eq_of_lt (UnsetOrPulse.lt hv)]
      exact hv
    · have hkept : (Machine.copyField (.channel i) v c).channels[j] = c.channels[j] :=
        Vector.getElem_set_ne i.isLt j.isLt hij
      rw [hkept]
      exact h j
  | _ => exact h

/-! ### The zeroed block -/

/-- Bytes that all read 0 load as 0. -/
theorem Memory.readLE_eq_zero (n : Nat) {m : List Host.Cell} {a : Nat}
    (h : ∀ b, a ≤ b → b < a + n → Memory.read m b = 0) : Memory.readLE m a n = 0 := by
  induction n generalizing a with
  | zero => rfl
  | succ n ih =>
    rw [Memory.readLE, h a (by omega) (by omega), ih fun b h1 h2 => h b (by omega) (by omega)]
    rfl

/-- In a zeroed block every field is 0. -/
theorem loadField_eq_zero {s : State} (h : ∀ a, inBlock s a = true → Memory.read s.mem a = 0)
    (f : Field) : loadField s f = 0 := by
  obtain ⟨-, hf⟩ := Field.bounds f
  refine Memory.readLE_eq_zero _ fun a h1 h2 => h a ?_
  simp only [inBlock, Bool.and_eq_true, decide_eq_true_eq]
  omega

/-- `RESET` zeroes the block (70_reset_and_hazards.md R250). -/
theorem read_resetState_inBlock {s : State} {a : Nat} (h : inBlock s a = true) :
    Memory.read (resetState s).mem a = 0 := by
  rw [resetState_mem, clearBlock, Memory.read_erase, if_pos h]
  rfl

end Sys2Proof.Machine

namespace Sys2Proof

open Machine

/-! ### Memory and copies -/

theorem BlockLegal.field {s : State} (h : BlockLegal s) (f : Field) : f.Legal (loadField s f) := by
  cases f with
  | channel i => exact h.channels i
  | channelCount => exact h.count
  | _ => exact trivial

/-- A legal store leaves every field legal. -/
theorem BlockLegal.field_storeField {s : State} (h : BlockLegal s) {f : Field} {v : Nat}
    (hv : f.Legal v) (g : Field) : g.Legal (loadField (storeField f v s) g) := by
  by_cases hg : f = g
  · rw [← hg, loadField_storeField_same]
    exact hv.mod_width
  · rw [loadField_storeField_ne hg]
    exact h.field g

theorem BlockLegal.storeField {s : State} (h : BlockLegal s) {f : Field} {v : Nat}
    (hv : f.Legal v) : BlockLegal (storeField f v s) where
  channels := fun i => h.field_storeField hv (.channel i)
  count := h.field_storeField hv .channelCount
  reserved := (read_storeField_offField (.inr rfl) f v).trans h.reserved
  snap := h.snap
  copy := h.copy

/-- With memory as it was, legal copies are all that is needed. -/
theorem BlockLegal.of_copies {s t : State} (h : BlockLegal s) (mem : t.mem = s.mem)
    (params : t.params = s.params) (snap : ∀ c, t.snap = some c → c.ChannelsLegal)
    (copy : ∀ c, t.copy = some c → c.partialCopy.ChannelsLegal) : BlockLegal t where
  channels := fun i => loadField_congr mem params (.channel i) ▸ h.channels i
  count := loadField_congr mem params .channelCount ▸ h.count
  reserved := by rw [mem, params, h.reserved]
  snap := snap
  copy := copy

/-- The invariant speaks of memory, the base and the two copies alone. -/
theorem BlockLegal.congr {s t : State} (h : BlockLegal s) (mem : t.mem = s.mem)
    (params : t.params = s.params) (snap : t.snap = s.snap) (copy : t.copy = s.copy) :
    BlockLegal t :=
  h.of_copies mem params (snap ▸ h.snap) (copy ▸ h.copy)

/-! ### Steps of HOST -/

theorem BlockLegal.hostFirstLoad {s : State} (h : BlockLegal s) : BlockLegal (hostFirstLoad s) := by
  unfold Machine.hostFirstLoad
  dsimp only
  split
  · exact h.congr rfl rfl rfl rfl
  · refine h.of_copies rfl rfl h.snap ?_
    rintro _ ⟨⟩
    exact blankCopy_channelsLegal _

theorem BlockLegal.hostFieldLoad {s : State} {c : Copy} (h : BlockLegal s) (hc : s.copy = some c)
    (pick : Nat) : BlockLegal (hostFieldLoad pick c s) := by
  have hcopy : c.partialCopy.ChannelsLegal := h.copy c hc
  refine h.of_copies rfl rfl h.snap ?_
  rintro _ ⟨⟩
  exact hcopy.copyField (h.field _)

theorem BlockLegal.hostLastLoad {s : State} {c : Copy} (h : BlockLegal s) (hc : s.copy = some c) :
    BlockLegal (hostLastLoad c s) := by
  unfold Machine.hostLastLoad
  dsimp only
  split
  · exact h.of_copies rfl rfl h.snap (fun _ h' => nomatch h')
  · refine h.of_copies rfl rfl ?_ (fun _ h' => nomatch h')
    rintro _ ⟨⟩
    exact h.copy c hc

theorem BlockLegal.hostLoad {s : State} (h : BlockLegal s) (pick : Nat) :
    BlockLegal (hostLoad pick s) := by
  unfold Machine.hostLoad
  split
  · exact h.hostFirstLoad
  · split
    · exact h.hostLastLoad ‹_›
    · exact h.hostFieldLoad ‹_› pick

theorem BlockLegal.hostMove {s : State} (h : BlockLegal s) (m : HostMove) :
    BlockLegal (hostMove m s) := by
  cases m with
  | load pick => exact h.hostLoad pick
  | push item =>
    exact h.congr (pushItem_mem item s) (pushItem_params item s) (pushItem_snap item s)
      (pushItem_copy item s)

theorem BlockLegal.hostLoads {s : State} (h : BlockLegal s) (n : Nat) :
    BlockLegal (hostLoads n s) := by
  induction n generalizing s with
  | zero => exact h
  | succ n ih => exact ih (h.hostLoad 0)

theorem BlockLegal.finishPoll {s : State} (h : BlockLegal s) : BlockLegal (finishPoll s) := by
  unfold Machine.finishPoll
  split
  · exact h
  · exact h.hostLoads _

theorem BlockLegal.hostSnapshot {s : State} (h : BlockLegal s) : BlockLegal (hostSnapshot s) := by
  unfold Machine.hostSnapshot
  split
  · exact h.hostFirstLoad.finishPoll
  · exact h.finishPoll

/-! ### Publishes -/

theorem BlockLegal.bumpGeneration {s : State} (h : BlockLegal s) : BlockLegal (bumpGeneration s) :=
  h.storeField trivial

theorem BlockLegal.storeAll {ws : List (Field × Nat)} {s : State} (h : BlockLegal s)
    (hws : ∀ w ∈ ws, w.1.Legal w.2) : BlockLegal (storeAll ws s) := by
  induction ws generalizing s with
  | nil => exact h
  | cons w ws ih =>
    obtain ⟨hw, hws⟩ := List.forall_mem_cons.1 hws
    exact ih (h.storeField hw) hws

/-- Legal stores with any steps of HOST between them (44_shared_block.md R185). -/
theorem BlockLegal.runPublish (ps : List PublishMove) {ws : List (Field × Nat)} {s : State}
    (h : BlockLegal s) (hws : ∀ w ∈ ws, w.1.Legal w.2) : BlockLegal (runPublish ps ws s) := by
  induction ps generalizing ws s with
  | nil => exact (h.storeAll hws).bumpGeneration
  | cons p ps ih =>
    cases p with
    | host m => exact ih (h.hostMove m) hws
    | store pick =>
      cases ws with
      | nil => exact h.bumpGeneration
      | cons w ws =>
        have hk : pick % (ws.length + 1) < (w :: ws).length := Nat.mod_lt _ (Nat.succ_pos _)
        have hpicked : (w :: ws).getD (pick % (ws.length + 1)) w ∈ w :: ws :=
          List.getD_eq_getElem (w :: ws) w hk ▸ List.getElem_mem hk
        exact ih (h.storeField (hws _ hpicked)) fun x hx => hws x (List.mem_of_mem_eraseIdx hx)

theorem BlockLegal.publish {s : State} (h : BlockLegal s) (f : List Byte) (gs : Groups) :
    BlockLegal (publish f gs.count s) :=
  .runPublish _ (h.congr rfl rfl rfl rfl) (publishStores_legal f gs)

theorem BlockLegal.acceptControl {s : State} (h : BlockLegal s) (f : List Byte) (gs : Groups) :
    BlockLegal (acceptControl f gs.count s) := by
  have hdrop : BlockLegal (rxDrop (controlLen gs.count) s) := h.congr rfl rfl rfl rfl
  exact (hdrop.publish f gs).congr rfl rfl rfl rfl

/-! ### Reset -/

/-- A zeroed block with no copies of it is legal. -/
theorem blockLegal_of_zero {s : State} (h : ∀ a, inBlock s a = true → Memory.read s.mem a = 0)
    (snap : s.snap = none) (copy : s.copy = none) : BlockLegal s where
  channels := fun i => loadField_eq_zero h (.channel i) ▸ Field.legal_zero (.channel i)
  count := by rw [loadField_eq_zero h]; exact Field.legal_zero .channelCount
  reserved := h _ (by simp [inBlock, Config.scbSize])
  snap := by simp [snap]
  copy := by simp [copy]

theorem resetState_blockLegal (s : State) : BlockLegal (resetState s) :=
  blockLegal_of_zero (fun _ => read_resetState_inBlock (s := s)) rfl rfl

/-! ### The step -/

theorem BlockLegal.afterPop {s : State} (h : BlockLegal s) : BlockLegal (afterPop s) :=
  h.congr (afterPop_mem s) (afterPop_params s) (afterPop_snap s) (afterPop_copy s)

/-- A step of the LSM keeps the block legal: of the transition table's rows only an accepted
control frame touches memory, by its publish. -/
theorem BlockLegal.lsmEffect {s t : State} (h : BlockLegal s) (e : LsmEffect s t) :
    BlockLegal t := by
  cases e with
  | accept gs st q c rest => exact h.acceptControl _ gs
  | build item => exact h.afterPop.congr rfl rfl rfl rfl
  | _ => exact h.congr rfl rfl rfl rfl

/-- Settles O52: each kind of move keeps the block and its copies legal. -/
theorem stepKeepsBlockLegal : Obligations.StepKeepsBlockLegal := by
  intro s t h hstep
  refine step_keeps hstep h ?agenda ?lsm ?line ?echo ?tick ?host ?answer ?pop ?publish ?snapshot
    ?reset
  case lsm => exact fun _ _ e h => h.lsmEffect e
  case host => exact fun _ m h => h.hostMove m
  case pop => exact fun _ h => h.afterPop
  case publish => exact fun _ f h => h.publish _ f.groups
  case snapshot => exact fun _ h => h.hostSnapshot
  case reset => exact fun s _ => resetState_blockLegal s
  case echo => exact fun _ _ _ h => h.congr rfl rfl rfl rfl
  all_goals exact fun _ _ h => h.congr rfl rfl rfl rfl

/-- Settles O48: no byte of memory is listed, so every field of the block loads as 0. -/
theorem resetValues : Obligations.ResetValues :=
  ⟨rfl, loadField_eq_zero fun _ _ => rfl, fun _ => rfl, rfl, rfl, rfl, rfl, rfl, rfl, rfl⟩

/-- Settles O53: the block is zeroed and there is no copy of it. -/
theorem resetBlockLegal : Obligations.ResetBlockLegal :=
  blockLegal_of_zero (fun _ _ => rfl) rfl rfl

end Sys2Proof
end

section
/-! Shared memory stays in its canonical form and the parameters stay as they are (20_memory.md
R46, R54). Only a publish and `RESET` change memory: the stores of a publish keep the form under
any plan, and `RESET` only takes bytes out of the list. -/

namespace Sys2Proof

open Machine

/-! ### The canonical form -/

/-- The form speaks of memory alone. -/
theorem MemoryCanonical.congr {s t : State} (h : MemoryCanonical s) (mem : t.mem = s.mem) :
    MemoryCanonical t := by
  rw [MemoryCanonical, mem]
  exact h

theorem MemoryCanonical.publish {s : State} (h : MemoryCanonical s) (f : List Byte) (G : Nat) :
    MemoryCanonical (publish f G s) :=
  (publish_spec f G s).wf h

theorem MemoryCanonical.acceptControl {s : State} (h : MemoryCanonical s) (f : List Byte)
    (G : Nat) : MemoryCanonical (acceptControl f G s) := by
  have hdrop : MemoryCanonical (rxDrop (controlLen G) s) := h.congr rfl
  exact (hdrop.publish f G).congr rfl

theorem MemoryCanonical.resetState {s : State} (h : MemoryCanonical s) :
    MemoryCanonical (resetState s) :=
  Memory.wf_erase (inBlock s) s.mem h

/-- Of the transition table's rows only an accepted control frame touches memory. -/
theorem MemoryCanonical.lsmEffect {s t : State} (h : MemoryCanonical s) (e : LsmEffect s t) :
    MemoryCanonical t := by
  cases e with
  | accept gs st q c rest => exact h.acceptControl _ gs.count
  | build item => exact h.congr (afterPop_mem s)
  | _ => exact h.congr rfl

/-- Settles O50: each kind of move keeps the canonical form. -/
theorem stepKeepsMemoryCanonical : Obligations.StepKeepsMemoryCanonical := by
  intro s t h hstep
  refine step_keeps hstep h ?agenda ?lsm ?line ?echo ?tick ?host ?answer ?pop ?publish ?snapshot
    ?reset
  case lsm => exact fun _ _ e h => h.lsmEffect e
  case host => exact fun s m h => h.congr (hostMove_mem m s)
  case pop => exact fun s h => h.congr (afterPop_mem s)
  case publish => exact fun _ f h => h.publish _ f.groups.count
  case snapshot => exact fun s h => h.congr (hostSnapshot_mem s)
  case reset => exact fun _ h => h.resetState
  case echo => exact fun _ _ _ h => h.congr rfl
  all_goals exact fun _ _ h => h.congr rfl

/-- Settles O51: no byte is listed. -/
theorem resetMemoryCanonical : Obligations.ResetMemoryCanonical := rfl

/-! ### The parameters -/

theorem publish_params (f : List Byte) (G : Nat) (s : State) :
    (publish f G s).params = s.params :=
  (publish_spec f G s).params

/-- No row of the transition table touches the parameters. -/
theorem lsmEffect_params {s t : State} (e : LsmEffect s t) : t.params = s.params := by
  cases e with
  | accept gs st q c rest hs hr => exact (acceptControl_accepted hr).params
  | build item => exact afterPop_params s
  | _ => rfl

/-- Settles O56: each kind of move keeps the parameters the step began with. -/
theorem parametersNeverChange : Obligations.ParametersNeverChange := by
  intro s t hstep
  refine step_keeps (I := fun u => u.params = s.params) hstep rfl ?agenda ?lsm ?line ?echo ?tick
    ?host ?answer ?pop ?publish ?snapshot ?reset
  case lsm => exact fun _ _ e h => (lsmEffect_params e).trans h
  case host => exact fun u m h => (hostMove_params m u).trans h
  case pop => exact fun u h => (afterPop_params u).trans h
  case publish => exact fun u f h => (publish_params _ _ u).trans h
  case snapshot => exact fun u h => (hostSnapshot_params u).trans h
  case reset => exact fun u h => (resetState_params u).trans h
  case echo => exact fun _ _ _ h => h
  all_goals exact fun _ _ h => h

end Sys2Proof
end

section
/-! The decoder undoes the encoder in every row's own place (30_encoding.md R61, R63, R75; operand
bytes: log 9), and what it reads as a frame or a state code is spelt back (R73). -/

namespace Sys2Proof

open Machine

/-! ### Frames and state codes -/

theorem decodeControl_controlBytes (gs : Groups) (st q c : Byte) (rest : List Byte) :
    decodeControl (controlBytes gs st q c ++ rest) = .ok (controlRow gs st q c, rest) := by
  have tail (mk : Byte → Byte → Byte → Instr) :
      decodeTail mk ([st, q, c] ++ rest) = .ok (mk st q c, rest) := rfl
  cases gs with
  | one g0 =>
    show decodeCtrl8 (groupBytes g0 ++ ([st, q, c] ++ rest)) = _
    simp only [decodeCtrl8, takeGroup_groupBytes, tail, controlRow]
  | two g0 g1 =>
    show decodeCtrl16 (groupBytes g0 ++ (groupBytes g1 ++ ([st, q, c] ++ rest))) = _
    simp only [decodeCtrl16, takeGroup_groupBytes, tail, controlRow]
  | three g0 g1 g2 =>
    show decodeCtrl24
      (groupBytes g0 ++ (groupBytes g1 ++ (groupBytes g2 ++ ([st, q, c] ++ rest)))) = _
    simp only [decodeCtrl24, takeGroup_groupBytes, tail, controlRow]

theorem decodeLink_linkBytes (mk : Byte → Byte → Word16 → Word → Byte → Instr)
    (dev prim c : Byte) (app : Word16) (data : Word) (rest : List Byte) :
    decodeLink mk (linkBytes dev prim app data c ++ rest) =
      .ok (mk dev prim app data c, rest) := by
  have h : decodeLink mk (linkBytes dev prim app data c ++ rest) =
      .ok (mk dev prim (le16 (byteAt app 0) (byteAt app 1))
        (le32 (byteAt data 0) (byteAt data 1) (byteAt data 2) (byteAt data 3)) c, rest) := rfl
  rw [h, le16_byteAt, le32_byteAt]

/-- A state row is spelt as the code of its state (10_state.md R12). -/
theorem encode_stateRow (st : LinkState) : encode (stateRow st) = [BitVec.ofNat 8 st.code] := by
  cases st <;> rfl

theorem placeOf_stateRow (st : LinkState) : placeOf (stateRow st) = .stateCode := by
  cases st <;> rfl

theorem decodeState_code (st : LinkState) (rest : List Byte) :
    decodeState (BitVec.ofNat 8 st.code :: rest) = .ok (stateRow st, rest) := by
  cases st <;> rfl

/-- A decoded state code, spelt back, is what stood there. -/
theorem decodeState_eq_ok {bs rest : List Byte} {i : Instr} (h : decodeState bs = .ok (i, rest)) :
    ∃ st : LinkState, i = stateRow st ∧ bs = BitVec.ofNat 8 st.code :: rest := by
  cases bs with
  | nil => cases h
  | cons c bs =>
    have spell (st : LinkState) (hc : c.toNat = st.code) :
        c :: bs = BitVec.ofNat 8 st.code :: bs := by
      rw [← hc, BitVec.ofNat_toNat, BitVec.setWidth_eq]
    dsimp only [decodeState] at h
    split at h
    case h_1 hc => cases h; exact ⟨.syncing, rfl, spell .syncing hc⟩
    case h_2 hc => cases h; exact ⟨.readControl, rfl, spell .readControl hc⟩
    case h_3 hc => cases h; exact ⟨.readDownlink, rfl, spell .readDownlink hc⟩
    case h_4 hc => cases h; exact ⟨.waitWriteUplink, rfl, spell .waitWriteUplink hc⟩
    case h_5 hc => cases h; exact ⟨.writeUplink, rfl, spell .writeUplink hc⟩
    case h_6 hc => cases h; exact ⟨.readUplink, rfl, spell .readUplink hc⟩
    all_goals cases h

/-- The rows that are no operation: three kinds of frame and the states (30_encoding.md R75). -/
theorem cases_of_not_operation {i : Instr} (h : placeOf i ≠ .opNumber) :
    (∃ gs st q c, i = controlRow gs st q c) ∨
      (∃ dev prim app data c, i = .dl dev prim app data c) ∨
      (∃ dev prim app data c, i = .ul dev prim app data c) ∨ ∃ st, i = stateRow st := by
  cases i with
  | ctrl8 g0 st q c => exact .inl ⟨.one g0, st, q, c, rfl⟩
  | ctrl16 g0 g1 st q c => exact .inl ⟨.two g0 g1, st, q, c, rfl⟩
  | ctrl24 g0 g1 g2 st q c => exact .inl ⟨.three g0 g1 g2, st, q, c, rfl⟩
  | dl dev prim app data c => exact .inr (.inl ⟨dev, prim, app, data, c, rfl⟩)
  | ul dev prim app data c => exact .inr (.inr (.inl ⟨dev, prim, app, data, c, rfl⟩))
  | syncing => exact .inr (.inr (.inr ⟨.syncing, rfl⟩))
  | readControl => exact .inr (.inr (.inr ⟨.readControl, rfl⟩))
  | readDownlink => exact .inr (.inr (.inr ⟨.readDownlink, rfl⟩))
  | waitWriteUplink => exact .inr (.inr (.inr ⟨.waitWriteUplink, rfl⟩))
  | writeUplink => exact .inr (.inr (.inr ⟨.writeUplink, rfl⟩))
  | readUplink => exact .inr (.inr (.inr ⟨.readUplink, rfl⟩))
  | _ => exact absurd rfl h

/-- A frame or a state code is read off the front of any bytes that follow. -/
theorem decode_encode_append {i : Instr} (h : placeOf i ≠ .opNumber) (rest : List Byte) :
    decode (placeOf i) (encode i ++ rest) = .ok (i, rest) := by
  obtain ⟨gs, st, q, c, rfl⟩ | ⟨dev, prim, app, data, c, rfl⟩ |
    ⟨dev, prim, app, data, c, rfl⟩ | ⟨st, rfl⟩ := cases_of_not_operation h
  · rw [placeOf_controlRow, encode_controlRow]
    exact decodeControl_controlBytes gs st q c rest
  · exact decodeLink_linkBytes .dl dev prim c app data rest
  · exact decodeLink_linkBytes .ul dev prim c app data rest
  · rw [placeOf_stateRow, encode_stateRow]
    exact decodeState_code st rest

/-! ### Operands of the operation rows (log 9) -/

theorem le16_natBytes16 {n : Nat} (h : fits16 n = true) :
    (le16 (byteAt (BitVec.ofNat 16 n) 0) (byteAt (BitVec.ofNat 16 n) 1)).toNat = n := by
  rw [le16_byteAt, BitVec.toNat_ofNat, Nat.mod_eq_of_lt (of_decide_eq_true h)]

theorem decodeFold_bytesLE16 (s : Word16) : decodeFold (bytesLE16 s) = some (.fold s) := by
  rw [bytesLE16, decodeFold, le16_byteAt]

theorem decodeBuildUplink_itemBytes (dev : Byte) (item : TelemetryItem) :
    decodeBuildUplink (dev :: itemBytes item) = some (.buildUplink dev item) := by
  show some (Instr.buildUplink dev ⟨le16 _ _, le32 _ _ _ _⟩) = _
  rw [le16_byteAt, le32_byteAt]

theorem decodeHostPush_itemBytes (item : TelemetryItem) :
    decodeHostPush (itemBytes item) = some (.hostPush item) := by
  show some (Instr.hostPush ⟨le16 _ _, le32 _ _ _ _⟩) = _
  rw [le16_byteAt, le32_byteAt]

theorem decodeUnpack11_groupBytes (b : Group) (i : Fin 8) :
    decodeUnpack11 (groupBytes b ++ [BitVec.ofNat 8 i.val]) = some (.unpack11 b i) := by
  have hi : (BitVec.ofNat 8 i.val).toNat = i.val :=
    (BitVec.toNat_ofNat ..).trans (Nat.mod_eq_of_lt (by omega))
  simp only [decodeUnpack11, takeGroup_groupBytes, hi, i.isLt, dite_true]

theorem decodePack11_natBytes16 {r0 r1 r2 r3 r4 r5 r6 r7 : Nat}
    (h : WellFormed (.pack11 r0 r1 r2 r3 r4 r5 r6 r7) = true) :
    decodePack11 (natBytes16 r0 ++ natBytes16 r1 ++ natBytes16 r2 ++ natBytes16 r3 ++
      natBytes16 r4 ++ natBytes16 r5 ++ natBytes16 r6 ++ natBytes16 r7) =
      some (.pack11 r0 r1 r2 r3 r4 r5 r6 r7) := by
  simp only [WellFormed, Bool.and_eq_true] at h
  obtain ⟨⟨⟨⟨⟨⟨⟨h0, h1⟩, h2⟩, h3⟩, h4⟩, h5⟩, h6⟩, h7⟩ := h
  show some (Instr.pack11 (le16 _ _).toNat (le16 _ _).toNat (le16 _ _).toNat (le16 _ _).toNat
    (le16 _ _).toNat (le16 _ _).toNat (le16 _ _).toNat (le16 _ _).toNat) = _
  rw [le16_natBytes16 h0, le16_natBytes16 h1, le16_natBytes16 h2, le16_natBytes16 h3,
    le16_natBytes16 h4, le16_natBytes16 h5, le16_natBytes16 h6, le16_natBytes16 h7]

theorem decodeRaw2pulse_natBytes16 (raw : BitVec 11) :
    decodeRaw2pulse (natBytes16 raw.toNat) = some (.raw2pulse raw) := by
  have hfit : fits16 raw.toNat = true := decide_eq_true (by omega)
  rw [natBytes16, bytesLE16, decodeRaw2pulse, le16_natBytes16 hfit, if_pos raw.isLt,
    BitVec.ofNat_toNat, BitVec.setWidth_eq]

theorem decodePulse2raw_bytesLE32 {pulse : Nat} (h : fits32 pulse = true) :
    decodePulse2raw (bytesLE32 (BitVec.ofNat 32 pulse)) = some (.pulse2raw pulse) := by
  rw [bytesLE32, decodePulse2raw, le32_byteAt, BitVec.toNat_ofNat,
    Nat.mod_eq_of_lt (of_decide_eq_true h)]

/-- The body operand of `PUBLISH` and `DECODE_CHANNELS`. -/
theorem decodeBody_bodyBytes (f : ControlBody) : decodeBody (bodyBytes f) = some f := by
  obtain ⟨gs, st, q⟩ := f
  cases gs with
  | one g0 =>
    show decodeBody (0 :: (groupBytes g0 ++ [st, q])) = _
    simp only [decodeBody, takeGroup_groupBytes, if_true]
  | two g0 g1 =>
    show decodeBody (1 :: (groupBytes g0 ++ (groupBytes g1 ++ [st, q]))) = _
    simp [decodeBody, takeGroup_groupBytes]
  | three g0 g1 g2 =>
    show decodeBody (2 :: (groupBytes g0 ++ (groupBytes g1 ++ (groupBytes g2 ++ [st, q])))) = _
    simp [decodeBody, takeGroup_groupBytes]

/-- An operation row is read from its number and its operand bytes (30_encoding.md R75, R76). -/
theorem decodeOp_encode {i : Instr} (hi : placeOf i = .opNumber) (hwf : WellFormed i = true) :
    decodeOp (encode i) = .ok (i, []) := by
  cases i with
  | fold s => exact congrArg opDone (decodeFold_bytesLE16 s)
  | buildUplink dev item => exact congrArg opDone (decodeBuildUplink_itemBytes dev item)
  | unpack11 b k => exact congrArg opDone (decodeUnpack11_groupBytes b k)
  | pack11 => exact congrArg opDone (decodePack11_natBytes16 hwf)
  | raw2pulse raw => exact congrArg opDone (decodeRaw2pulse_natBytes16 raw)
  | pulse2raw => exact congrArg opDone (decodePulse2raw_bytesLE32 hwf)
  | decodeChannels f =>
    exact congrArg (fun b => opDone (b.map .decodeChannels)) (decodeBody_bodyBytes f)
  | hostPush item => exact congrArg opDone (decodeHostPush_itemBytes item)
  | publish f => exact congrArg (fun b => opDone (b.map .publish)) (decodeBody_bodyBytes f)
  | csum | check | validateControl | validateLink | pop | hostSnapshot | reset => rfl
  | _ => cases hi

/-- Settles O1: by the row's place, an operation or a row read off the front of the bytes. -/
theorem decodeEncodeRoundTrip : Obligations.DecodeEncodeRoundTrip := by
  intro i hwf
  refine ⟨?_, fun hop => decode_encode_append hop⟩
  by_cases hop : placeOf i = .opNumber
  · rw [hop]
    exact decodeOp_encode hop hwf
  · simpa using decode_encode_append hop []

/-- Settles O2, each place by what its decoder accepts. -/
theorem decodedFramesSpellBack : Obligations.DecodedFramesSpellBack := by
  intro p bs rest i hp h
  cases p with
  | control =>
    obtain ⟨gs, st, q, c, rfl, rfl⟩ := decodeControl_eq_ok h
    exact ⟨placeOf_controlRow gs st q c, by rw [encode_controlRow]⟩
  | downlink =>
    obtain ⟨dev, prim, app, data, c, rfl, rfl⟩ := decodeLink_eq_ok h
    exact ⟨rfl, rfl⟩
  | uplink =>
    obtain ⟨dev, prim, app, data, c, rfl, rfl⟩ := decodeLink_eq_ok h
    exact ⟨rfl, rfl⟩
  | stateCode =>
    obtain ⟨st, rfl, rfl⟩ := decodeState_eq_ok h
    exact ⟨placeOf_stateRow st, by rw [encode_stateRow]; rfl⟩
  | opNumber => exact absurd rfl hp

/-- Settles O3, each word by running the decoder on it. -/
theorem specWordsDecode : Obligations.SpecWordsDecode :=
  ⟨rfl, rfl, rfl, rfl, rfl, rfl, rfl, rfl, rfl⟩

end Sys2Proof
end

section
/-! The frame rows (30_encoding.md R68, R73; log 12): each is the step of the current state on its
bytes. -/

namespace Sys2Proof.Machine

open Sys2Proof

/-- A frame row is received where its encoding stands at the front of `rx`. -/
theorem exec_frameRow {i : Instr}
    (h : placeOf i = .control ∨ placeOf i = .downlink ∨ placeOf i = .uplink) (s : State) :
    exec i s = receiveFrame (encode i) s := by
  cases i with
  | ctrl8 | ctrl16 | ctrl24 | dl | ul => rfl
  | _ => simp [placeOf] at h

/-- Settles O47: the frame at the front of `rx` or not. -/
theorem frameRowsFollowTheState : Obligations.FrameRowsFollowTheState := by
  intro i s hi
  rw [exec_frameRow hi, exec_stateRow]
  exact ⟨receiveFrame_prefix, receiveFrame_not_prefix⟩

/-! ### The rule of each state that reads `rx` (42_link_fsm.md R138) -/

theorem lsmStep_of_syncing {s : State} (hs : s.state = .syncing) : lsmStep s = stepSyncing s := by
  rw [lsmStep, hs]

theorem lsmStep_of_readControl {s : State} (hs : s.state = .readControl) :
    lsmStep s = stepReadControl s := by
  rw [lsmStep, hs]

theorem lsmStep_of_readDownlink {s : State} (hs : s.state = .readDownlink) :
    lsmStep s = stepReadDownlink s := by
  rw [lsmStep, hs]

theorem lsmStep_of_readUplink {s : State} (hs : s.state = .readUplink) :
    lsmStep s = stepReadUplink s := by
  rw [lsmStep, hs]

/-! ### Control rows -/

/-- A control row executes as the LSM's step when its frame is at the front of `rx`. -/
theorem exec_controlRow_received {s : State} {gs : Groups} {st q c : Byte} {rest : List Byte}
    (h : s.rx = controlBytes gs st q c ++ rest) :
    exec (controlRow gs st q c) s = .next (lsmStep s) := by
  rw [exec_controlRow, receiveFrame_prefix ⟨rest, h.symm⟩]

/-- In both states that read control frames, one with the right checksum is accepted. -/
theorem lsmStep_controlFrame {s : State} {gs : Groups} {st q c : Byte} {rest : List Byte}
    (h : s.rx = controlBytes gs st q c ++ rest)
    (hc : check s.params (controlBytes gs st q c) = true)
    (hs : s.state = .syncing ∨ s.state = .readControl) :
    lsmStep s = acceptControl (controlBytes gs st q c) gs.count s := by
  obtain hs | hs := hs
  · rw [lsmStep_of_syncing hs, stepSyncing, tryControl_frame h, if_pos hc]
  · rw [lsmStep_of_readControl hs, stepReadControl, tryControl_frame h, if_pos hc]

theorem tryControl_frame_badSum {s : State} {gs : Groups} {st q c : Byte} {rest : List Byte}
    (h : s.rx = controlBytes gs st q c ++ rest)
    (hc : check s.params (controlBytes gs st q c) = false) : tryControl s = .bad := by
  rw [tryControl_frame h, if_neg (by simp [hc])]

/-- Settles O43: the step of the state on a complete control frame, by its checksum. -/
theorem controlRowsResult : Obligations.ControlRowsResult := by
  intro s gs st q c rest h
  rw [exec_controlRow_received h]
  refine ⟨fun hc hs => ⟨_, rfl, ?_⟩, fun hc hs => ?_, fun hc hs => ?_⟩
  · rw [lsmStep_controlFrame h hc hs]
    exact acceptControl_accepted h
  · rw [lsmStep_of_syncing hs, stepSyncing, tryControl_frame_badSum h hc]
    rfl
  · rw [lsmStep_of_readControl hs, stepReadControl, tryControl_frame_badSum h hc]
    rfl

/-- The size byte of a control frame is not that of a link frame (30_encoding.md R68 (a)). -/
theorem controlSize_count_ne_linkSize (gs : Groups) : controlSize gs.count ≠ 0x08 := by
  obtain hG | hG | hG := gs.count_cases <;> rw [hG] <;> decide

/-- Where a link frame is expected a control frame is no header. -/
theorem tryLink_controlFrame {s : State} {gs : Groups} {st q c : Byte} {rest : List Byte}
    (h : s.rx = controlBytes gs st q c ++ rest) : tryLink s = .noHeader := by
  rw [controlBytes_eq_cons] at h
  exact tryLink_noHeader h (controlSize_count_ne_linkSize gs)

/-- Settles O44: `TRY_LINK` stops at the size byte, in both states that read link frames. -/
theorem controlRowsOutOfPlace : Obligations.ControlRowsOutOfPlace := by
  intro s gs st q c rest h
  rw [exec_controlRow_received h]
  refine ⟨fun hs => ?_, fun hs => ?_⟩
  · rw [lsmStep_of_readDownlink hs, stepReadDownlink, tryLink_controlFrame h]
    rfl
  · rw [lsmStep_of_readUplink hs, stepReadUplink, tryLink_controlFrame h]
    rfl

end Sys2Proof.Machine
end

section
/-! The checksum in numbers (40_codec.md R91 to R94, R99): the fold of the sum of the bytes. -/

namespace Sys2Proof.Machine

open Sys2Proof

/-! ### The fold (R91) -/

theorem foldLoop_succ (n s : Nat) :
    foldLoop (n + 1) s = if 255 < s then foldLoop n (s % 256 + s / 256) else s := by
  rw [foldLoop, Nat.and_two_pow_sub_one_eq_mod s 8, Nat.shiftRight_eq_div_pow]

/-- A byte is its own fold. -/
theorem foldValue_of_le {n : Nat} (h : n ≤ 255) : foldValue n = n := by
  unfold foldValue
  split <;> omega

theorem foldValue_le (n : Nat) : foldValue n ≤ 255 := by
  unfold foldValue
  split <;> omega

/-- One iteration keeps the value: 256 leaves 1 modulo 255, and the result is 0 at 0 only. -/
theorem foldValue_iteration (n : Nat) : foldValue (n % 256 + n / 256) = foldValue n := by
  unfold foldValue
  split <;> split <;> omega

theorem foldValue_foldLoop (k n : Nat) : foldValue (foldLoop k n) = foldValue n := by
  induction k generalizing n with
  | zero => rfl
  | succ k ih =>
    rw [foldLoop_succ]
    split
    · rw [ih, foldValue_iteration]
    · rfl

/-- Two iterations bring 16 bits below 256: the first leaves at most 510. -/
theorem foldLoop_two_le {n : Nat} (h : n < 65536) : foldLoop 2 n ≤ 255 := by
  rw [foldLoop_succ, foldLoop_succ, foldLoop]
  split
  · split <;> omega
  · omega

theorem foldLoop_two {n : Nat} (h : n < 65536) : foldLoop 2 n = foldValue n := by
  rw [← foldValue_of_le (foldLoop_two_le h), foldValue_foldLoop]

theorem foldSum_toNat (s : Word16) : (foldSum s).toNat = foldValue s.toNat := by
  have hle := foldValue_le s.toNat
  rw [foldSum, foldLoop_two s.isLt, BitVec.toNat_ofNat, Nat.mod_eq_of_lt (by omega)]

/-- Settles O8: the byte is the fold, by its loop. -/
theorem foldResult : Obligations.FoldResult := fun a _ =>
  ⟨foldSum a, foldSum_toNat a, rfl⟩

/-! ### The sum (R92) -/

theorem foldl_add_toNat (b : List Byte) (acc : Word16) :
    (b.foldl (fun acc x => acc + x.setWidth 16) acc).toNat =
      (acc.toNat + (b.map BitVec.toNat).sum) % 65536 := by
  induction b generalizing acc with
  | nil => exact (Nat.mod_eq_of_lt acc.isLt).symm
  | cons x b ih =>
    have hx : (x.setWidth 16).toNat = x.toNat :=
      (BitVec.toNat_setWidth ..).trans (Nat.mod_eq_of_lt (by omega))
    rw [List.foldl_cons, ih, BitVec.toNat_add, hx, List.map_cons, List.sum_cons]
    omega

theorem csumAcc_toNat (b : List Byte) :
    (csumAcc b).toNat = (b.map BitVec.toNat).sum % 65536 := by
  rw [csumAcc, foldl_add_toNat]
  exact congrArg (· % 65536) (Nat.zero_add _)

theorem csum_toNat (b : List Byte) :
    (csum b).toNat = 255 - foldValue ((b.map BitVec.toNat).sum % 65536) := by
  have hfold : (foldSum (csumAcc b)).toNat = foldValue ((b.map BitVec.toNat).sum % 65536) := by
    rw [foldSum_toNat, csumAcc_toNat]
  rw [csum, BitVec.toNat_sub_of_le (BitVec.le_def.2 (hfold ▸ foldValue_le _)), hfold]
  rfl

/-- Settles O9: the byte in numbers. -/
theorem csumResult : Obligations.CsumResult := fun b _ =>
  ⟨csum b, csum_toNat b, rfl⟩

/-! ### What the checksum detects (R99) -/

/-- Equal checksums are equal folds of the sums. -/
theorem csum_eq_csum_iff (b c : List Byte) :
    csum b = csum c ↔ foldValue ((b.map BitVec.toNat).sum % 65536) =
      foldValue ((c.map BitVec.toNat).sum % 65536) := by
  have hb := foldValue_le ((b.map BitVec.toNat).sum % 65536)
  have hc := foldValue_le ((c.map BitVec.toNat).sum % 65536)
  rw [← BitVec.toNat_inj, csum_toNat, csum_toNat]
  omega

/-- Settles O17: a permutation keeps the sum. -/
theorem checksumIgnoresOrder : Obligations.ChecksumIgnoresOrder := fun b c h => by
  rw [csum_eq_csum_iff, (h.map BitVec.toNat).sum_eq]

theorem sum_toNat_le (b : List Byte) : (b.map BitVec.toNat).sum ≤ 255 * b.length := by
  have hbyte : ∀ n ∈ b.map BitVec.toNat, n ≤ 255 := by
    intro n hn
    obtain ⟨x, -, rfl⟩ := List.mem_map.1 hn
    omega
  simpa [Nat.mul_comm] using List.sum_le_card_nsmul _ _ hbyte

theorem sum_toNat_pos_iff (b : List Byte) :
    0 < (b.map BitVec.toNat).sum ↔ ∃ x ∈ b, x ≠ 0 := by
  rw [List.sum_pos_iff_exists_pos_nat]
  simp [Nat.pos_iff_ne_zero, ← BitVec.toNat_inj]

/-- One byte's share of the sum, wherever it stands. -/
theorem sum_toNat_insert (pre post : List Byte) (x : Byte) :
    ((pre ++ x :: post).map BitVec.toNat).sum =
      ((pre ++ post).map BitVec.toNat).sum + x.toNat := by
  simp only [List.map_append, List.map_cons, List.sum_append, List.sum_cons]
  omega

/-- Beside a sum `n` of other bytes, two bytes have one fold exactly when they are 0 and 255 and
`n` is not 0. -/
theorem foldValue_add_eq_iff {n x y : Nat} (hx : x ≤ 255) (hy : y ≤ 255) (hxy : x ≠ y) :
    foldValue (n + x) = foldValue (n + y) ↔
      ((x = 0 ∧ y = 255) ∨ (x = 255 ∧ y = 0)) ∧ 0 < n := by
  by_cases hn : n = 0
  · subst hn
    rw [Nat.zero_add, Nat.zero_add, foldValue_of_le hx, foldValue_of_le hy]
    omega
  · rw [foldValue, foldValue, if_neg (by omega), if_neg (by omega)]
    omega

/-- Settles O16: sums of at most 257 bytes do not wrap, so it is a fact of the fold. -/
theorem checksumCatchesOneByte : Obligations.ChecksumCatchesOneByte := by
  intro pre post x y hlen hxy
  have hsum := sum_toNat_le (pre ++ post)
  have hx := x.isLt
  have hy := y.isLt
  have hne : x.toNat ≠ y.toNat := fun h => hxy (BitVec.eq_of_toNat_eq h)
  simp only [List.length_append, List.length_cons] at hlen hsum
  rw [csum_eq_csum_iff, sum_toNat_insert, sum_toNat_insert, Nat.mod_eq_of_lt (by omega),
    Nat.mod_eq_of_lt (by omega), foldValue_add_eq_iff (by omega) (by omega) hne,
    sum_toNat_pos_iff]
  simp only [← BitVec.toNat_inj]
  exact Iff.rfl

/-! ### The test of a frame's last byte (R93, R94) -/

/-- `CHECK` of a frame given as its last byte behind the others. -/
theorem check_concat (p : Params) (body : List Byte) (last : Byte) :
    check p (body ++ [last]) =
      decide (last = if p.csumCoversSize then csum body else csum (body.drop 1)) := by
  rw [check, covered, List.getLast?_concat, List.dropLast_concat]
  simp only [Option.some.injEq, apply_ite csum]

/-- Settles O10: `CHECK` reads the frame as its last byte behind the others. -/
theorem checkIsByteEquality : Obligations.CheckIsByteEquality := by
  intro b0 b1 last rest body s h
  rw [← check_concat, ← h]
  rfl

/-- A frame that ends in the checksum of its covered bytes passes. -/
theorem check_concat_checksum (p : Params) (body : List Byte) :
    check p (body ++ [if p.csumCoversSize then csum body else csum (body.drop 1)]) = true := by
  rw [check_concat]
  exact decide_eq_true rfl

end Sys2Proof.Machine
end

section
/-! Frames validate exactly as the spec says, and what the block builds validates (40_codec.md R95,
R96, R98). -/

namespace Sys2Proof.Machine

open Sys2Proof

/-! ### Control frames (R95) -/

/-- `VALIDATE_CONTROL` in the terms claims use. -/
theorem validateControl_eq_some_iff {p : Params} {f : List Byte} {G : Nat} :
    validateControl p f = some G ↔
      ShapeOf (byteOf f 0) (byteOf f 1) G ∧ f.length = controlLen G ∧ check p f = true := by
  rw [← controlShape_eq_some, validateControl]
  cases controlShape (byteOf f 0) (byteOf f 1) with
  | none => simp
  | some K =>
    simp only [Option.ite_none_left_eq_some, Option.ite_none_right_eq_some, not_ne_iff,
      Option.some.injEq]
    constructor
    · rintro ⟨hl, hc, rfl⟩
      exact ⟨rfl, hl, hc⟩
    · rintro ⟨rfl, hl, hc⟩
      exact ⟨hl, hc, rfl⟩

/-- Settles O11: the frame's first two bytes are the row's first two operands. -/
theorem validateControlResult : Obligations.ValidateControlResult := fun _ _ _ _ =>
  ⟨_, rfl, fun _ => validateControl_eq_some_iff⟩

/-- Settles O15: shape, length and checksum of the frame of a body. -/
theorem controlFrameValidates : Obligations.ControlFrameValidates := fun p f =>
  validateControl_eq_some_iff.2
    ⟨shapeOf_count f.groups, controlBytes_length .., check_concat_checksum p _⟩

/-! ### Link frames (R96) -/

theorem getElem?_eq_some_byteOf {f : List Byte} {i : Nat} (h : i < f.length) :
    f[i]? = some (byteOf f i) := by
  rw [byteOf, List.getD_eq_getElem _ _ h, List.getElem?_eq_getElem h]

/-- The last test of `VALIDATE_LINK` passes: the primitive counts only with `CHECK_PRIM_ON_RX`. -/
theorem prim_test_passes_iff {p : Params} {f : List Byte} :
    ¬ (p.checkPrimOnRx && decide (primitiveOf f ≠ Config.linkPrim)) = true ↔
      (p.checkPrimOnRx = true → primitiveOf f = Config.linkPrim) := by
  rw [Bool.and_eq_true, decide_eq_true_iff, not_and, not_ne_iff]

/-- `VALIDATE_LINK` in the terms claims use. -/
theorem validateLink_eq_some_iff {p : Params} {f : List Byte} {d : Byte} :
    validateLink p f = some d ↔ f.length = Config.linkFrameLen ∧ f[0]? = some Config.linkSize ∧
      check p f = true ∧ (p.checkPrimOnRx = true → f[2]? = some Config.linkPrim) ∧
      f[1]? = some d := by
  simp only [validateLink, Option.ite_none_left_eq_some, prim_test_passes_iff, not_ne_iff]
  refine and_congr_right fun hl => ?_
  have hbyte (i : Nat) (hi : i < 10) : f[i]? = some (byteOf f i) :=
    getElem?_eq_some_byteOf (hl ▸ hi)
  rw [hbyte 0 (by decide), hbyte 1 (by decide), hbyte 2 (by decide)]
  simp [linkShape, primitiveOf, deviceOf]

/-- Settles O12: the row answers what `VALIDATE_LINK` gives. -/
theorem validateLinkResult : Obligations.ValidateLinkResult := fun _ _ =>
  ⟨_, rfl, fun _ => validateLink_eq_some_iff⟩

/-! ### Uplink frames (R98) -/

/-- Settles O13: the bytes of the frame as the layout lists them. -/
theorem buildUplinkBytes : Obligations.BuildUplinkBytes := by
  intro dev item s body hbody
  subst hbody
  rfl

/-- Settles O14: the answer is a link frame with its own checksum behind it. -/
theorem builtUplinkValidates : Obligations.BuiltUplinkValidates := fun p dev item =>
  have hcheck : check p (buildUplink p dev item).toList = true :=
    check_concat_checksum p
      (Config.linkSize :: linkBody dev Config.linkPrim item.appId item.data)
  validateLink_eq_some_iff.2 ⟨rfl, rfl, hcheck, fun _ => rfl, rfl⟩

end Sys2Proof.Machine
end

section
/-! Groups of eleven bytes and of eight raw values as one integer (41_channels.md R110, R111): the
raw values are its digits in base 2048. -/

namespace Sys2Proof.Machine

open Sys2Proof

/-- Appending bit vectors is adding, the high part shifted past the low one. -/
theorem toNat_append_eq_add {m n : Nat} (hi : BitVec m) (lo : BitVec n) :
    (hi ++ lo).toNat = lo.toNat + 2 ^ n * hi.toNat := by
  rw [BitVec.toNat_append, ← Nat.shiftLeft_add_eq_or_of_lt lo.isLt, Nat.shiftLeft_eq,
    Nat.mul_comm, Nat.add_comm]

/-- A digit of an integer given by its digits, the lowest first; 0 past the highest. -/
theorem ofDigits_div_pow_mod {b : Nat} {ds : List Nat} (hb : 0 < b) (h : ∀ d ∈ ds, d < b)
    (i : Nat) : Nat.ofDigits b ds / b ^ i % b = ds.getD i 0 := by
  rw [Nat.ofDigits_div_pow_eq_ofDigits_drop i hb ds h]
  by_cases hi : i < ds.length
  · rw [List.drop_eq_getElem_cons hi, Nat.ofDigits_cons, Nat.add_mul_mod_self_left,
      Nat.mod_eq_of_lt (h _ (List.getElem_mem hi)), List.getD_eq_getElem _ _ hi]
  · rw [List.drop_eq_nil_of_le (by omega), Nat.ofDigits_nil, Nat.zero_mod,
      List.getD_eq_default _ _ (by omega)]

/-! ### Bytes -/

/-- Eleven bytes, the first lowest (R110). -/
theorem le88_toNat (b0 b1 b2 b3 b4 b5 b6 b7 b8 b9 b10 : Byte) :
    (le88 b0 b1 b2 b3 b4 b5 b6 b7 b8 b9 b10).toNat =
      b0.toNat + b1.toNat * 2 ^ 8 + b2.toNat * 2 ^ 16 + b3.toNat * 2 ^ 24 + b4.toNat * 2 ^ 32 +
        b5.toNat * 2 ^ 40 + b6.toNat * 2 ^ 48 + b7.toNat * 2 ^ 56 + b8.toNat * 2 ^ 64 +
        b9.toNat * 2 ^ 72 + b10.toNat * 2 ^ 80 := by
  simp only [le88, toNat_append_eq_add]
  ring

theorem byteAt_toNat {n : Nat} (v : BitVec n) (k : Nat) :
    (byteAt v k).toNat = v.toNat / 256 ^ k % 256 := by
  rw [byteAt, BitVec.extractLsb'_toNat, Nat.shiftRight_eq_div_pow, Nat.pow_mul]

theorem groupBytes_getD (g : Group) {j : Nat} (hj : j < 11) :
    (groupBytes g).getD j 0 = byteAt g j := by
  interval_cases j <;> rfl

/-- Settles O18: the shift and the mask are the quotient and the remainder of the field. -/
theorem unpack11Result : Obligations.Unpack11Result := by
  intro b0 b1 b2 b3 b4 b5 b6 b7 b8 b9 b10 i s W hW
  have hfield : (unpack11 (le88 b0 b1 b2 b3 b4 b5 b6 b7 b8 b9 b10) i.val).toNat =
      (W >>> (11 * i.val)) &&& 0x7FF := by
    rw [unpack11_toNat, le88_toNat, ← hW, Nat.and_two_pow_sub_one_eq_mod _ 11,
      Nat.shiftRight_eq_div_pow]
  rw [← hfield]
  rfl

/-! ### Raw values -/

/-- The reduced values are the digits in base 2048, the first lowest (R111). -/
theorem pack11_toNat (r0 r1 r2 r3 r4 r5 r6 r7 : Nat) :
    (pack11 r0 r1 r2 r3 r4 r5 r6 r7).toNat =
      Nat.ofDigits 2048 ([r0, r1, r2, r3, r4, r5, r6, r7].map (· % 2048)) := by
  simp only [pack11, toNat_append_eq_add, BitVec.toNat_ofNat, List.map, Nat.ofDigits_cons,
    Nat.ofDigits_nil]
  omega

/-- Settles O19: the bytes of the packed integer. -/
theorem pack11Result : Obligations.Pack11Result := by
  intro r0 r1 r2 r3 r4 r5 r6 r7 s
  refine ⟨_, rfl, groupBytes_length _, fun j hj => ?_⟩
  rw [groupBytes_getD _ hj, byteAt_toNat, pack11_toNat]
  simp only [List.map, Nat.ofDigits_cons, Nat.ofDigits_nil]
  ring_nf

theorem unpack11_pack11 (r0 r1 r2 r3 r4 r5 r6 r7 i : Nat) :
    (unpack11 (pack11 r0 r1 r2 r3 r4 r5 r6 r7) i).toNat =
      [r0, r1, r2, r3, r4, r5, r6, r7].getD i 0 % 2048 := by
  have hdigits : ∀ d ∈ [r0, r1, r2, r3, r4, r5, r6, r7].map (· % 2048), d < 2048 := by
    intro d hd
    obtain ⟨r, -, rfl⟩ := List.mem_map.1 hd
    omega
  rw [unpack11_toNat, Nat.pow_mul, pack11_toNat, ofDigits_div_pow_mod (by decide) hdigits i]
  exact List.getD_map _ (d := 0) (· % 2048)

theorem pack11_unpack11 (b : Group) :
    pack11 (unpack11 b 0).toNat (unpack11 b 1).toNat (unpack11 b 2).toNat (unpack11 b 3).toNat
      (unpack11 b 4).toNat (unpack11 b 5).toNat (unpack11 b 6).toNat (unpack11 b 7).toNat = b := by
  apply BitVec.eq_of_toNat_eq
  simp only [pack11_toNat, unpack11_toNat, List.map, Nat.ofDigits_cons, Nat.ofDigits_nil]
  omega

/-- Settles O20: a field of a pack is a digit of it, and a group is the sum of its digits. -/
theorem packUnpackInverse : Obligations.PackUnpackInverse :=
  ⟨fun r0 r1 r2 r3 r4 r5 r6 r7 i => unpack11_pack11 r0 r1 r2 r3 r4 r5 r6 r7 i.val,
    pack11_unpack11⟩

end Sys2Proof.Machine
end

section
/-! The channel scaling (41_channels.md R113, R114): bounds, steps and both round trips. -/

namespace Sys2Proof.Machine

open Sys2Proof

/-- Settles O21: the rows answer the two scalings. -/
theorem scalingResults : Obligations.ScalingResults :=
  ⟨fun _ _ => rfl, fun _ _ => rfl⟩

theorem pulse2raw_eq_clamp (pulse : Nat) :
    pulse2raw pulse = 8 + (max 500 (min 2500 pulse) - 500) * 1968 / 2000 := rfl

theorem pulse2raw_le (pulse : Nat) : pulse2raw pulse ≤ 1976 := by
  rw [pulse2raw_eq_clamp]
  omega

/-! ### Inside the ranges the clamps do nothing -/

theorem raw2pulse_add_eight {n : Nat} (h : n ≤ 1968) :
    raw2pulse (8 + n) = 500 + n * 2000 / 1968 := by
  rw [raw2pulse_eq_pulseOf, pulseOf, Nat.min_eq_right (by omega), Nat.max_eq_right (by omega),
    Nat.add_sub_cancel_left]

theorem pulse2raw_add_500 {k : Nat} (h : k ≤ 2000) :
    pulse2raw (500 + k) = 8 + k * 1968 / 2000 := by
  rw [pulse2raw_eq_clamp, Nat.min_eq_right (by omega), Nat.max_eq_right (by omega),
    Nat.add_sub_cancel_left]

/-! ### From a raw value -/

theorem raw2pulse_of_le {raw : Nat} (h : raw ≤ 8) : raw2pulse raw = 500 := by
  rw [raw2pulse_eq_pulseOf, pulseOf]
  omega

theorem raw2pulse_of_ge {raw : Nat} (h : 1976 ≤ raw) : raw2pulse raw = 2500 := by
  rw [raw2pulse_eq_pulseOf, pulseOf]
  omega

theorem raw2pulse_mono {a b : Nat} (h : a ≤ b) : raw2pulse a ≤ raw2pulse b := by
  simp only [raw2pulse_eq_pulseOf, pulseOf]
  omega

/-- One raw unit is 2000/1968 pulse units, at least 1 and less than 2. -/
theorem raw2pulse_succ {a : Nat} (h8 : 8 ≤ a) (h : a < 1976) :
    raw2pulse (a + 1) = raw2pulse a + 1 ∨ raw2pulse (a + 1) = raw2pulse a + 2 := by
  obtain ⟨n, rfl⟩ := Nat.exists_eq_add_of_le h8
  rw [Nat.add_assoc, raw2pulse_add_eight (by omega), raw2pulse_add_eight (by omega)]
  omega

theorem raw2pulse_strictMono {a b : Nat} (h8 : 8 ≤ a) (hab : a < b) (hb : b ≤ 1976) :
    raw2pulse a < raw2pulse b := by
  have hsucc := raw2pulse_succ h8 (by omega)
  have hmono := raw2pulse_mono (show a + 1 ≤ b from hab)
  omega

theorem pulse2raw_raw2pulse {u : Nat} (h8 : 8 ≤ u) (h : u ≤ 1976) :
    pulse2raw (raw2pulse u) = u ∨ pulse2raw (raw2pulse u) + 1 = u := by
  obtain ⟨n, rfl⟩ := Nat.exists_eq_add_of_le h8
  rw [raw2pulse_add_eight (by omega), pulse2raw_add_500 (by omega)]
  omega

/-- Settles O22: the bounds, the ends, the steps and the round trip. -/
theorem scalingProperties : Obligations.ScalingProperties :=
  ⟨raw2pulse_bounds, fun _ => raw2pulse_of_le, fun _ => raw2pulse_of_ge,
    fun _ _ => raw2pulse_mono, fun _ _ => raw2pulse_strictMono, fun _ => raw2pulse_succ,
    fun _ => pulse2raw_raw2pulse⟩

/-! ### From a pulse

With `k = 125 * j + r` the round trip gives `125 * j + r` less 0 at `r = 0`, less 2 at `r = 63` and
less 1 at every other `r`. -/

theorem raw2pulse_pulse2raw_add_500 {k : Nat} (h : k ≤ 2000) :
    raw2pulse (pulse2raw (500 + k)) = 500 + k * 1968 / 2000 * 2000 / 1968 := by
  rw [pulse2raw_add_500 h, raw2pulse_add_eight (by omega)]

theorem raw2pulse_pulse2raw_eq_iff {k : Nat} (h : k ≤ 2000) :
    raw2pulse (pulse2raw (500 + k)) = 500 + k ↔ k % 125 = 0 := by
  rw [raw2pulse_pulse2raw_add_500 h]
  omega

theorem raw2pulse_pulse2raw_bounds {k : Nat} (h : k ≤ 2000) :
    500 + k ≤ raw2pulse (pulse2raw (500 + k)) + 2 ∧
      raw2pulse (pulse2raw (500 + k)) ≤ 500 + k := by
  rw [raw2pulse_pulse2raw_add_500 h]
  omega

theorem raw2pulse_pulse2raw_add_two_iff {k : Nat} (h : k ≤ 2000) :
    raw2pulse (pulse2raw (500 + k)) + 2 = 500 + k ↔ k ≡ 63 [MOD 125] := by
  rw [raw2pulse_pulse2raw_add_500 h, Nat.ModEq]
  omega

/-- One pulse in each of the 16 periods of 125 comes back 2 less. -/
theorem length_filter_two_less :
    ((List.range 2001).filter fun k =>
      decide (raw2pulse (pulse2raw (500 + k)) + 2 = 500 + k)).length = 16 := by
  have hresidue : ((List.range 2001).filter fun k =>
      decide (raw2pulse (pulse2raw (500 + k)) + 2 = 500 + k)) =
      (List.range 2001).filter fun k => decide (k ≡ 63 [MOD 125]) :=
    List.filter_congr fun k hk => decide_eq_decide.2
      (raw2pulse_pulse2raw_add_two_iff (Nat.le_of_lt_succ (List.mem_range.1 hk)))
  rw [hresidue, ← List.countP_eq_length_filter]
  exact Nat.count_modEq_card 2001 (by decide) 63

end Sys2Proof.Machine
end

section
/-! `DECODE_CHANNELS` and `ENCODE_CHANNELS` (41_channels.md R115, R116). -/

namespace Sys2Proof.Machine

open Sys2Proof

theorem decodeChannels_length (f : List Byte) (G : Nat) : (decodeChannels f G).length = 24 := by
  rw [decodeChannels, List.length_map, List.length_range, Config.channelsMax]

theorem decodeChannels_getD (f : List Byte) (G : Nat) {c : Nat} (h : c < 24) :
    (decodeChannels f G).getD c 0 = channelValue f G c := by
  rw [List.getD_eq_getElem _ _ (h.trans_eq (decodeChannels_length f G).symm)]
  simp only [decodeChannels, List.getElem_map, List.getElem_range]

/-- Each channel of the frame of a body, by its groups. -/
theorem decodeChannels_controlFrame (p : Params) (f : ControlBody) {c : Nat} (h : c < 24) :
    (decodeChannels (controlFrame p f) f.groups.count).getD c 0 = slotValue f.groups c := by
  rw [decodeChannels_getD _ _ h, controlFrame, channelValue_controlBytes]

/-- Settles O23: the answer is the list of the 24 values. -/
theorem decodeChannelsResult : Obligations.DecodeChannelsResult := fun f s =>
  ⟨_, rfl, decodeChannels_length _ _, fun _ hc => decodeChannels_controlFrame s.params f hc⟩

/-- A field of an encoded group is its channel's pulse, scaled. -/
theorem unpack11_encodeGroup (pulses : List Nat) (g : Nat) {k : Nat} (hk : k < 8) :
    (unpack11 (encodeGroup pulses g) k).toNat = pulse2raw (pulses.getD (8 * g + k) 0) := by
  have hfield : (unpack11 (encodeGroup pulses g) k).toNat =
      pulse2raw (pulses.getD (8 * g + k) 0) % 2048 := by
    rw [encodeGroup, unpack11_pack11]
    interval_cases k <;> rfl
  rw [hfield, Nat.mod_eq_of_lt (Nat.lt_of_le_of_lt (pulse2raw_le _) (by decide))]

/-- An encoded frame is the frame of a body whose groups are the encoded ones (R116). -/
theorem exists_encodeChannels_eq (p : Params) (pulses : List Nat) {G : Nat} (st q : Byte)
    (h1 : 1 ≤ G) (h3 : G ≤ 3) :
    ∃ gs : Groups, gs.list = (List.range G).map (encodeGroup pulses) ∧
      encodeChannels p pulses G st q = controlFrame p ⟨gs, st, q⟩ := by
  obtain rfl | rfl | rfl : G = 1 ∨ G = 2 ∨ G = 3 := by omega
  · exact ⟨.one _, rfl, rfl⟩
  · exact ⟨.two _ _, rfl, rfl⟩
  · exact ⟨.three _ _ _, rfl, rfl⟩

/-- A slot of encoded groups holds its pulse, scaled forth and back. -/
theorem slotValue_of_encodeGroup {gs : Groups} {pulses : List Nat}
    (hgs : gs.list = (List.range gs.count).map (encodeGroup pulses)) {c : Nat}
    (hc : c < 8 * gs.count) :
    slotValue gs c = raw2pulse (pulse2raw (pulses.getD c 0)) := by
  have hgroup : gs.list.getD (c / 8) 0 = encodeGroup pulses (c / 8) := by
    rw [hgs, List.getD_eq_getElem _ _ (by rw [List.length_map, List.length_range]; omega),
      List.getElem_map, List.getElem_range]
  have hraw : rawOf gs c = pulse2raw (pulses.getD c 0) := by
    rw [rawOf, hgroup, ← unpack11_toNat, unpack11_encodeGroup _ _ (by omega),
      Nat.div_add_mod]
  rw [slotValue, if_pos hc, hraw, raw2pulse_eq_pulseOf]

/-- Settles O24: the encoded frame is the frame of a body, then the scaling's round trip. -/
theorem encodedChannelsDecode : Obligations.EncodedChannelsDecode := by
  refine ⟨fun p pulses G st q h1 h3 => ?_, fun u h500 h2500 => ?_, length_filter_two_less⟩
  · obtain ⟨gs, hgs, henc⟩ := exists_encodeChannels_eq p pulses st q h1 h3
    obtain rfl : gs.count = G := by rw [Groups.count, hgs, List.length_map, List.length_range]
    rw [henc]
    refine ⟨controlFrameValidates p _, statusOf_controlBytes .., qualityOf_controlBytes ..,
      fun c hc => ?_⟩
    rw [← slotValue_of_encodeGroup hgs hc]
    exact decodeChannels_controlFrame p ⟨gs, st, q⟩ (by omega)
  · obtain ⟨k, rfl⟩ := Nat.exists_eq_add_of_le h500
    obtain ⟨hge, hle⟩ := raw2pulse_pulse2raw_bounds (k := k) (by omega)
    rw [Nat.add_sub_cancel_left]
    exact ⟨raw2pulse_pulse2raw_eq_iff (by omega), Nat.sub_le_of_le_add hge, hle⟩

end Sys2Proof.Machine
end

section
/-! The moves of the agents, one equation each (00_scope.md R8; 42_link_fsm.md R135, R136, R138;
log 6, log 11). -/

namespace Sys2Proof.Machine

open Sys2Proof

/-! ### What the LSM fetches -/

theorem fetch_of_decode {s : State} {p : Place} {i : Instr} {rest : List Byte}
    (hp : framePosition s.state = some p) (hd : decode p s.rx = .ok (i, rest)) : fetch s = i := by
  simp only [fetch, hp, hd, decodedInstr, Option.getD_some]

theorem fetch_of_decode_error {s : State} {p : Place} {e : DecodeError}
    (hp : framePosition s.state = some p) (hd : decode p s.rx = .error e) :
    fetch s = stateRow s.state := by
  simp only [fetch, hp, hd, decodedInstr, Option.getD_none]

theorem fetch_of_no_frame {s : State} (hp : framePosition s.state = none) :
    fetch s = stateRow s.state := by
  simp only [fetch, hp]

/-- The fetched instruction does not depend on the moves still to come. -/
theorem step_lsm {s : State} {ms : List Move} (hl : s.params.linkReady = true)
    (hp : paramsOk s.params = true) (ha : s.agenda = .lsm :: ms) :
    step s = exec (fetch s) { s with agenda := ms } :=
  step_move hl hp ha

theorem step_idle_fetch {s : State} (hl : s.params.linkReady = true)
    (hp : paramsOk s.params = true) (ha : s.agenda = []) : step s = exec (fetch s) s :=
  (step_idle hl hp ha).trans (lsmMove_eq s).symm

/-- Fetched frame or not, the LSM's move is the row of its state (42_link_fsm.md R138). -/
theorem exec_fetch (s : State) : exec (fetch s) s = exec (stateRow s.state) s :=
  (lsmMove_eq s).trans (exec_stateRow s).symm

theorem runMove_call_of_operation {i : Instr} (hi : placeOf i = .opNumber) (s : State) :
    runMove (.call i) s = exec i s := by
  rw [runMove, if_pos (by simpa [isOperation] using hi)]

/-- Settles O4, by what is fetched in each case. -/
theorem stepRunsDecodedInstruction : Obligations.StepRunsDecodedInstruction := by
  intro s hl hp
  refine ⟨fun p i rest ms hpos hd ha => ?_, fun p i rest hpos hd ha => ?_,
    fun p e ms hpos hd ha => ?_, fun ms hpos ha => ?_, fun i ms hi ha => ?_⟩
  · rw [step_lsm hl hp ha, fetch_of_decode hpos hd]
  · rw [step_idle_fetch hl hp ha, fetch_of_decode hpos hd]
  · rw [step_lsm hl hp ha, fetch_of_decode_error hpos hd]
  · rw [step_lsm hl hp ha, fetch_of_no_frame hpos]
  · rw [step_move hl hp ha, runMove_call_of_operation hi]

/-- Settles O5: the fetched instruction is the row of the state in effect. -/
theorem lsmStepRunsRuleOfState : Obligations.LsmStepRunsRuleOfState := by
  intro s hl hp
  refine ⟨fun ms ha => ?_, fun ha => ?_⟩
  · rw [step_lsm hl hp ha]
    exact exec_fetch { s with agenda := ms }
  · rw [step_idle_fetch hl hp ha, exec_fetch]

/-! ### LINE and CLOCK -/

theorem echoMove_of_byte {s : State} {b : Byte} (he : s.params.lineEcho = true)
    (hb : s.tx[s.echoed]? = some b) :
    echoMove s = .next { s with rx := s.rx ++ [b], echoed := s.echoed + 1 } := by
  simp only [echoMove, he, hb, if_true]

theorem echoMove_of_none {s : State}
    (h : s.params.lineEcho = false ∨ s.tx.length ≤ s.echoed) :
    echoMove s = .refused .noEcho := by
  rw [echoMove]
  split
  case isFalse => rfl
  case isTrue he =>
    have hnone : s.tx[s.echoed]? = none :=
      List.getElem?_eq_none (h.resolve_left (by simp [he]))
    rw [hnone]

/-- Settles O6, one move for each clause. -/
theorem environmentMoves : Obligations.EnvironmentMoves := by
  intro s ms hl hp
  refine ⟨fun b ha => ?_, fun b ha he hb => ?_, fun ha he => ?_, fun n ha hn => ?_,
    fun ha => ?_, fun item ha => ?_⟩
  · exact step_move hl hp ha
  · rw [step_move hl hp ha]
    exact echoMove_of_byte he hb
  · rw [step_move hl hp ha]
    exact echoMove_of_none he
  · rw [step_move hl hp ha]
    exact if_neg (Nat.ne_of_gt hn)
  · exact step_move hl hp ha
  · exact step_move hl hp ha

end Sys2Proof.Machine
end

section
/-! The four states that read `rx` (42_link_fsm.md R140, R141, R143, R146, R150), by the answers of
`TRY_CONTROL` and `TRY_LINK`, and the two that answer (R144, R145). -/

namespace Sys2Proof.Machine

open Sys2Proof

/-! ### `Syncing` and `ReadControl` -/

theorem exec_syncing_of_wait {s : State} (h : tryControl s = .wait) :
    exec .syncing s = .next s :=
  congrArg Host.Outcome.next (by rw [stepSyncing, h])

theorem exec_readControl_of_wait {s : State} (h : tryControl s = .wait) :
    exec .readControl s = .next s :=
  congrArg Host.Outcome.next (by rw [stepReadControl, h])

theorem exec_syncing_of_bad {s : State} {b0 b1 : Byte} {rest : List Byte}
    (hr : s.rx = b0 :: b1 :: rest) (h : tryControl s = .bad) :
    exec .syncing s = .next { s with rx := rest, events := s.events ++ [.syncLoss] } := by
  have hdrop : rxDrop Config.syncDrop s = { s with rx := rest } := by rw [rxDrop, hr]; rfl
  exact congrArg Host.Outcome.next (by rw [stepSyncing, h, hdrop]; rfl)

theorem exec_readControl_of_bad {s : State} (h : tryControl s = .bad) :
    exec .readControl s = .next { s with
      state := .syncing, events := s.events ++ [.controlFrameError] } :=
  congrArg Host.Outcome.next (by rw [stepReadControl, h]; rfl)

theorem tryControl_frame_goodSum {s : State} {gs : Groups} {st q c : Byte} {rest : List Byte}
    (h : s.rx = controlBytes gs st q c ++ rest)
    (hc : check s.params (controlBytes gs st q c) = true) :
    tryControl s = .ok (controlBytes gs st q c) gs.count := by
  rw [tryControl_frame h, if_pos hc]

theorem exec_syncing_of_ok {s : State} {f : List Byte} {G : Nat} (h : tryControl s = .ok f G) :
    exec .syncing s = .next (acceptControl f G s) :=
  congrArg Host.Outcome.next (by rw [stepSyncing, h])

theorem exec_readControl_of_ok {s : State} {f : List Byte} {G : Nat}
    (h : tryControl s = .ok f G) : exec .readControl s = .next (acceptControl f G s) :=
  congrArg Host.Outcome.next (by rw [stepReadControl, h])

/-- Settles O36: `TRY_CONTROL` answers the frame, and both states accept it. -/
theorem controlFrameAccepted : Obligations.ControlFrameAccepted := by
  intro s gs st q c rest h hc
  have hok := tryControl_frame_goodSum h hc
  have haccepted := acceptControl_accepted h
  exact ⟨⟨_, exec_syncing_of_ok hok, haccepted⟩, ⟨_, exec_readControl_of_ok hok, haccepted⟩⟩

/-- Settles O37, each case by what `TRY_CONTROL` answers. -/
theorem syncingWaitsOrDropsTwo : Obligations.SyncingWaitsOrDropsTwo := fun _ =>
  ⟨fun hlen => exec_syncing_of_wait (tryControl_short hlen), fun _ _ _ hr =>
    ⟨fun hshape => exec_syncing_of_bad hr (tryControl_noShape hr hshape), fun _ hshape =>
      ⟨fun hlen => exec_syncing_of_wait (tryControl_incomplete hr hshape hlen),
        fun hlen hsum => exec_syncing_of_bad hr (tryControl_badSum hr hshape hlen hsum)⟩⟩⟩

/-- Settles O38, each case by what `TRY_CONTROL` answers. -/
theorem readControlWaitsOrResyncs : Obligations.ReadControlWaitsOrResyncs := fun _ =>
  ⟨fun hlen => exec_readControl_of_wait (tryControl_short hlen), fun _ _ _ hr =>
    ⟨fun hshape => exec_readControl_of_bad (tryControl_noShape hr hshape), fun _ hshape =>
      ⟨fun hlen => exec_readControl_of_wait (tryControl_incomplete hr hshape hlen),
        fun hlen hsum => exec_readControl_of_bad (tryControl_badSum hr hshape hlen hsum)⟩⟩⟩

/-! ### `ReadDownlink` and `ReadUplink` -/

theorem tryLink_frame_bad {s : State} {f rest : List Byte} (h : s.rx = f ++ rest)
    (hl : f.length = 10) (h0 : f[0]? = some 0x08) (hv : validateLink s.params f = none) :
    tryLink s = .bad := by
  rw [tryLink_frame h hl h0, hv]

theorem tryLink_frame_ok {s : State} {f rest : List Byte} {d : Byte} (h : s.rx = f ++ rest)
    (hv : validateLink s.params f = some d) : tryLink s = .ok f := by
  obtain ⟨hl, h0⟩ := validateLink_some_shape hv
  rw [tryLink_frame h hl h0, hv]

theorem exec_readDownlink_of_wait {s : State} (h : tryLink s = .wait) :
    exec .readDownlink s = .next s :=
  congrArg Host.Outcome.next (by rw [stepReadDownlink, h])

theorem exec_readUplink_of_wait {s : State} (h : tryLink s = .wait) :
    exec .readUplink s = .next s :=
  congrArg Host.Outcome.next (by rw [stepReadUplink, h])

theorem exec_readDownlink_of_noHeader {s : State} (h : tryLink s = .noHeader) :
    exec .readDownlink s = .next { s with
      state := .syncing, events := s.events ++ [.downlinkFrameError .shape] } :=
  congrArg Host.Outcome.next (by rw [stepReadDownlink, h]; rfl)

theorem exec_readUplink_of_noHeader {s : State} (h : tryLink s = .noHeader) :
    exec .readUplink s = .next { s with state := .readControl } :=
  congrArg Host.Outcome.next (by rw [stepReadUplink, h]; rfl)

theorem exec_readDownlink_of_bad {s : State} (h : tryLink s = .bad) :
    exec .readDownlink s = .next { s with
      state := .syncing, events := s.events ++ [.downlinkFrameError .checksum] } :=
  congrArg Host.Outcome.next (by rw [stepReadDownlink, h]; rfl)

theorem exec_readUplink_of_bad {s : State} (h : tryLink s = .bad) :
    exec .readUplink s = .next { s with
      state := .syncing, events := s.events ++ [.uplinkFrameError] } :=
  congrArg Host.Outcome.next (by rw [stepReadUplink, h]; rfl)

/-- An accepted downlink frame: the device id says whether this node is polled (R143). -/
theorem exec_readDownlink_of_valid {s : State} {f rest : List Byte} {d : Byte}
    (h : s.rx = f ++ rest) (hv : validateLink s.params f = some d) :
    exec .readDownlink s = .next (if d = s.params.nodeId then
      { s with rx := rest, tDl := s.cyc, state := .waitWriteUplink }
      else { s with rx := rest, state := .readUplink }) := by
  obtain ⟨hl, -⟩ := validateLink_some_shape hv
  obtain rfl := validateLink_some_device hv
  exact congrArg Host.Outcome.next
    (by rw [stepReadDownlink, tryLink_frame_ok h hv, rxDrop_link h hl]; rfl)

/-- An accepted uplink frame, whoever sent it (R146). -/
theorem exec_readUplink_of_valid {s : State} {f rest : List Byte} {d : Byte}
    (h : s.rx = f ++ rest) (hv : validateLink s.params f = some d) :
    exec .readUplink s = .next { s with rx := rest, state := .readControl } := by
  obtain ⟨hl, -⟩ := validateLink_some_shape hv
  exact congrArg Host.Outcome.next
    (by rw [stepReadUplink, tryLink_frame_ok h hv, rxDrop_link h hl]; rfl)

/-- Settles O39, each case by what `TRY_LINK` answers. -/
theorem readDownlinkStep : Obligations.ReadDownlinkStep := by
  intro s
  refine ⟨fun hr => exec_readDownlink_of_wait (tryLink_nil hr),
    fun b rest hr hb => exec_readDownlink_of_noHeader (tryLink_noHeader hr hb),
    fun rest hr hlen => exec_readDownlink_of_wait (tryLink_short hr hlen),
    fun f rest h hl h0 => ⟨fun hv => ?_, fun hv => ?_, fun d hv hd => ?_⟩⟩
  · exact exec_readDownlink_of_bad (tryLink_frame_bad h hl h0 hv)
  · rw [exec_readDownlink_of_valid h hv, if_pos rfl]
  · rw [exec_readDownlink_of_valid h hv, if_neg hd]

/-- Settles O42, each case by what `TRY_LINK` answers. -/
theorem readUplinkStep : Obligations.ReadUplinkStep := fun _ =>
  ⟨fun hr => exec_readUplink_of_wait (tryLink_nil hr),
    fun _ _ hr hb => exec_readUplink_of_noHeader (tryLink_noHeader hr hb),
    fun _ hr hlen => exec_readUplink_of_wait (tryLink_short hr hlen),
    fun _ _ h hl h0 => ⟨fun hv => exec_readUplink_of_bad (tryLink_frame_bad h hl h0 hv),
      fun _ hv => exec_readUplink_of_valid h hv⟩⟩

/-! ### The link rows in their own states (30_encoding.md R63, R73) -/

theorem exec_dl_of_readDownlink {s : State} {dev prim c : Byte} {app : Word16} {data : Word}
    {rest : List Byte} (h : s.rx = linkBytes dev prim app data c ++ rest)
    (hs : s.state = .readDownlink) :
    exec (.dl dev prim app data c) s = exec .readDownlink s := by
  obtain ⟨hreceived, -⟩ := frameRowsFollowTheState (.dl dev prim app data c) s (.inr (.inl rfl))
  rw [hreceived ⟨rest, h.symm⟩, hs]
  rfl

theorem exec_ul_of_readUplink {s : State} {dev prim c : Byte} {app : Word16} {data : Word}
    {rest : List Byte} (h : s.rx = linkBytes dev prim app data c ++ rest)
    (hs : s.state = .readUplink) :
    exec (.ul dev prim app data c) s = exec .readUplink s := by
  obtain ⟨hreceived, -⟩ := frameRowsFollowTheState (.ul dev prim app data c) s (.inr (.inr rfl))
  rw [hreceived ⟨rest, h.symm⟩, hs]
  rfl

/-- Settles O45: the step of `ReadDownlink` on the row's bytes. -/
theorem downlinkRowResult : Obligations.DownlinkRowResult := by
  intro s dev prim c app data rest h hs
  rw [exec_dl_of_readDownlink h hs]
  refine ⟨fun hv hd => ?_, fun hv hd => ?_, fun hv => ?_⟩
  · rw [exec_readDownlink_of_valid h hv, if_pos hd]
  · rw [exec_readDownlink_of_valid h hv, if_neg hd]
  · exact exec_readDownlink_of_bad (tryLink_frame_bad h rfl rfl hv)

/-- Settles O46: the step of `ReadUplink` on the row's bytes. -/
theorem uplinkRowResult : Obligations.UplinkRowResult := by
  intro s dev prim c app data rest h hs
  rw [exec_ul_of_readUplink h hs]
  exact ⟨exec_readUplink_of_valid h,
    fun hv => exec_readUplink_of_bad (tryLink_frame_bad h rfl rfl hv)⟩

/-! ### `WaitWriteUplink` and `WriteUplink` -/

theorem buildAnswer_of_empty {s : State} (h : s.head = s.tail) :
    buildAnswer s = { s with
      txbuf := buildUplink s.params s.params.nodeId TelemetryItem.zero, state := .writeUplink } := by
  simp only [buildAnswer, popped, afterPop, if_pos h]
  rfl

theorem buildAnswer_of_not_empty {s : State} (h : s.head ≠ s.tail) :
    buildAnswer s = { s with
      tail := s.tail + 1
      txbuf := buildUplink s.params s.params.nodeId s.slots[slotOf s.tail]
      state := .writeUplink } := by
  simp only [buildAnswer, popped, afterPop, if_neg h]
  rfl

/-- The turnaround: both bounds of the window belong to it (R144). -/
theorem stepWaitWriteUplink_in_window {s : State} (hmin : s.params.tMin ≤ elapsed s)
    (hmax : elapsed s ≤ s.params.tMax) : stepWaitWriteUplink s = buildAnswer s := by
  rw [stepWaitWriteUplink, if_neg (Nat.not_lt.2 hmin), if_neg (Nat.not_lt.2 hmax)]

/-- Settles O40, by the elapsed time against the window and the outbox. -/
theorem waitWriteUplinkStep : Obligations.WaitWriteUplinkStep := by
  rintro s _ rfl
  refine ⟨fun hmin => ?_, fun hmin hmax => ?_, fun hmin hmax hempty => ?_,
    fun hmin hmax hitem => ?_⟩ <;> refine congrArg Host.Outcome.next ?_
  · rw [stepWaitWriteUplink]
    exact if_pos hmin
  · rw [stepWaitWriteUplink]
    exact (if_neg (Nat.not_lt.2 hmin)).trans (if_pos hmax)
  · rw [stepWaitWriteUplink_in_window hmin hmax, buildAnswer_of_empty hempty]
    rfl
  · rw [stepWaitWriteUplink_in_window hmin hmax, buildAnswer_of_not_empty hitem]

/-- Settles O41: the rule has one case. -/
theorem writeUplinkStep : Obligations.WriteUplinkStep := fun _ => rfl

end Sys2Proof.Machine
end

section
/-! The transmit side stays legal (42_link_fsm.md R135, R151 (c); 43_outbox.md R173 (c)). Only
`WriteUplink` sends, what it sends was built by `WaitWriteUplink`, and no step of HOST, not even one
inside a publish, touches more of this side than the outbox. -/

namespace Sys2Proof.Machine

open Sys2Proof

/-! ### The outbox's count -/

theorem outboxCount_congr {s t : State} (head : t.head = s.head) (tail : t.tail = s.tail) :
    outboxCount t = outboxCount s := by
  rw [outboxCount, head, tail, outboxCount]

theorem outboxCount_afterPop_le (s : State) : outboxCount (afterPop s) ≤ outboxCount s := by
  by_cases h : s.head = s.tail
  · rw [afterPop, if_pos h]
  · rw [afterPop, if_neg h]
    simp only [outboxCount]
    bv_omega

/-- Dropping the oldest item leaves room for one more (43_outbox.md R171). -/
theorem outboxCount_dropOldest_lt {s : State} (h : outboxCount s ≤ 8) :
    outboxCount (dropOldest s) < 8 := by
  by_cases hfull : s.head - s.tail = 8
  · rw [dropOldest_full hfull]
    simp only [outboxCount, raise]
    bv_omega
  · rw [dropOldest_not_full hfull]
    exact Nat.lt_of_le_of_ne h fun h8 => hfull ((outboxCount_eq_cap s).1 h8)

theorem outboxCount_pushItem_le (item : TelemetryItem) {s : State} (h : outboxCount s ≤ 8) :
    outboxCount (pushItem item s) ≤ 8 := by
  have hroom := outboxCount_dropOldest_lt h
  simp only [outboxCount, pushItem] at hroom ⊢
  bv_omega

/-! ### What every event of a publish keeps -/

/-- What a store and a step of HOST keep, a publish keeps under any plan (44_shared_block.md
R185). -/
theorem runPublish_keeps {I : State → Prop}
    (store : ∀ f v s, I s → I (storeField f v s)) (host : ∀ m s, I s → I (hostMove m s))
    (ps : List PublishMove) (ws : List (Field × Nat)) {s : State} (h : I s) :
    I (runPublish ps ws s) := by
  have hstores (ws : List (Field × Nat)) (s : State) (h : I s) : I (storeAll ws s) := by
    induction ws generalizing s with
    | nil => exact h
    | cons w ws ih => exact ih _ (store _ _ _ h)
  induction ps generalizing ws s with
  | nil => exact store _ _ _ (hstores ws s h)
  | cons p ps ih =>
    cases p with
    | host m => exact ih ws (host m s h)
    | store pick =>
      cases ws with
      | nil => exact store _ _ _ h
      | cons w ws => exact ih _ (store _ _ _ h)

end Sys2Proof.Machine

namespace Sys2Proof

open Machine

/-! ### What the invariant needs of a change -/

/-- With nothing sent, the answer to be sent and the count of the outbox are all that is needed. -/
theorem UplinkLegal.of_not_sent {s t : State} (h : UplinkLegal s) (tx : t.tx = s.tx)
    (echoed : t.echoed = s.echoed) (params : t.params = s.params)
    (built : t.state = .writeUplink → UplinkFrame s.params t.txbuf.toList)
    (outbox : outboxCount t ≤ 8) : UplinkLegal t where
  sent := by rw [tx, params]; exact h.sent
  built := by rw [params]; exact built
  outbox := outbox
  echoed := by rw [tx, echoed]; exact h.echoed

/-- A change of the outbox alone. -/
theorem UplinkLegal.of_outbox {s t : State} (h : UplinkLegal s) (tx : t.tx = s.tx)
    (echoed : t.echoed = s.echoed) (params : t.params = s.params) (state : t.state = s.state)
    (txbuf : t.txbuf = s.txbuf) (outbox : outboxCount t ≤ 8) : UplinkLegal t :=
  h.of_not_sent tx echoed params (by rw [state, txbuf]; exact h.built) outbox

/-- The invariant speaks of these fields alone. -/
theorem UplinkLegal.congr {s t : State} (h : UplinkLegal s) (tx : t.tx = s.tx)
    (echoed : t.echoed = s.echoed) (params : t.params = s.params) (state : t.state = s.state)
    (txbuf : t.txbuf = s.txbuf) (head : t.head = s.head) (tail : t.tail = s.tail) :
    UplinkLegal t :=
  h.of_outbox tx echoed params state txbuf (outboxCount_congr head tail ▸ h.outbox)

/-- Outside `WriteUplink` no answer need stand ready. -/
theorem UplinkLegal.goTo {s : State} (h : UplinkLegal s) {st : LinkState}
    (hst : st ≠ .writeUplink) : UplinkLegal (goTo st s) :=
  h.of_not_sent rfl rfl rfl (fun hw => absurd hw hst) h.outbox

/-- Nothing sent, no answer ready, an empty outbox: the state after a reset. -/
theorem uplinkLegal_of_empty {s : State} (tx : s.tx = []) (echoed : s.echoed = 0)
    (state : s.state = .syncing) (outbox : s.head = s.tail) : UplinkLegal s where
  sent := ⟨[], tx, fun _ h => nomatch h⟩
  built := fun hw => nomatch state.symm.trans hw
  outbox := by rw [(outboxCount_eq_zero s).2 outbox]; exact Nat.zero_le 8
  echoed := by rw [echoed]; exact Nat.zero_le _

/-! ### Steps of HOST and publishes -/

theorem UplinkLegal.pushItem {s : State} (h : UplinkLegal s) (item : TelemetryItem) :
    UplinkLegal (pushItem item s) :=
  h.of_outbox (pushItem_tx item s) (pushItem_echoed item s) (pushItem_params item s)
    (pushItem_state item s) (pushItem_txbuf item s) (outboxCount_pushItem_le item h.outbox)

theorem UplinkLegal.afterPop {s : State} (h : UplinkLegal s) : UplinkLegal (afterPop s) :=
  h.of_outbox (afterPop_tx s) (afterPop_echoed s) (afterPop_params s) (afterPop_state s)
    (afterPop_txbuf s) ((outboxCount_afterPop_le s).trans h.outbox)

theorem UplinkLegal.hostMove {s : State} (h : UplinkLegal s) (m : HostMove) :
    UplinkLegal (hostMove m s) := by
  cases m with
  | push item => exact h.pushItem item
  | load pick =>
    exact h.congr (hostLoad_tx pick s) (hostLoad_echoed pick s) (hostLoad_params pick s)
      (hostLoad_state pick s) (hostLoad_txbuf pick s) (hostLoad_head pick s)
      (hostLoad_tail pick s)

theorem UplinkLegal.hostSnapshot {s : State} (h : UplinkLegal s) :
    UplinkLegal (hostSnapshot s) :=
  h.congr (hostSnapshot_tx s) (hostSnapshot_echoed s) (hostSnapshot_params s)
    (hostSnapshot_state s) (hostSnapshot_txbuf s) (hostSnapshot_head s) (hostSnapshot_tail s)

theorem UplinkLegal.publish {s : State} (h : UplinkLegal s) (f : List Byte) (G : Nat) :
    UplinkLegal (publish f G s) :=
  runPublish_keeps (fun _ _ _ h => h.congr rfl rfl rfl rfl rfl rfl rfl)
    (fun m _ h => h.hostMove m) _ _ (h.congr rfl rfl rfl rfl rfl rfl rfl)

theorem UplinkLegal.acceptControl {s : State} (h : UplinkLegal s) (f : List Byte) (G : Nat) :
    UplinkLegal (acceptControl f G s) := by
  have hdrop : UplinkLegal (rxDrop (controlLen G) s) := h.congr rfl rfl rfl rfl rfl rfl rfl
  exact (hdrop.publish f G).goTo (by decide)

/-! ### The answer -/

/-- What `WaitWriteUplink` builds is a frame this node may send. -/
theorem uplinkFrame_buildUplink (p : Params) (item : TelemetryItem) :
    UplinkFrame p (buildUplink p p.nodeId item).toList :=
  ⟨rfl, builtUplinkValidates p p.nodeId item, rfl⟩

theorem UplinkLegal.build {s : State} (h : UplinkLegal s) (item : TelemetryItem) :
    UplinkLegal { Machine.afterPop s with
      txbuf := buildUplink s.params s.params.nodeId item, state := .writeUplink } :=
  h.of_not_sent (afterPop_tx s) (afterPop_echoed s) (afterPop_params s)
    (fun _ => uplinkFrame_buildUplink s.params item)
    ((outboxCount_afterPop_le s).trans h.outbox)

/-- The answer that stood ready is one more frame sent. -/
theorem UplinkLegal.transmit {s : State} (h : UplinkLegal s) (hs : s.state = .writeUplink) :
    UplinkLegal { s with tx := s.tx ++ s.txbuf.toList, state := .readUplink } where
  sent := by
    obtain ⟨frames, htx, hframes⟩ := h.sent
    refine ⟨frames ++ [s.txbuf.toList], by simp [htx], fun f hf => ?_⟩
    obtain hf | hf := List.mem_append.1 hf
    · exact hframes f hf
    · exact List.mem_singleton.1 hf ▸ h.built hs
  built := nofun
  outbox := h.outbox
  echoed := h.echoed.trans (List.length_append ▸ Nat.le_add_right _ _)

/-! ### The step -/

/-- LINE echoes a byte that was sent (R135 (b)). -/
theorem UplinkLegal.echo {s : State} (h : UplinkLegal s) {b : Byte}
    (hb : s.tx[s.echoed]? = some b) :
    UplinkLegal { s with rx := s.rx ++ [b], echoed := s.echoed + 1 } := by
  obtain ⟨hlt, -⟩ := List.getElem?_eq_some_iff.1 hb
  exact { h with echoed := hlt }

/-- A step of the LSM keeps the transmit side legal, by the rows of the transition table. -/
theorem UplinkLegal.lsmEffect {s t : State} (h : UplinkLegal s) (e : LsmEffect s t) :
    UplinkLegal t := by
  cases e with
  | wait => exact h
  | resync => exact h.congr rfl rfl rfl rfl rfl rfl rfl
  | accept gs st q c rest => exact h.acceptControl _ gs.count
  | error e st hst =>
    have hraise : UplinkLegal (raise e s) := h.congr rfl rfl rfl rfl rfl rfl rfl
    exact hraise.goTo (by obtain rfl | rfl := hst <;> decide)
  | link f rest d st tDl hr hv hst =>
    exact h.of_not_sent rfl rfl rfl (fun hw => absurd hw hst) h.outbox
  | silent => exact h.goTo (by decide)
  | build item => exact h.build item
  | transmit hs => exact h.transmit hs

/-- Settles O54: each kind of move keeps the transmit side legal. -/
theorem stepKeepsUplinkLegal : Obligations.StepKeepsUplinkLegal := by
  intro s t h hstep
  refine step_keeps hstep h ?agenda ?lsm ?line ?echo ?tick ?host ?answer ?pop ?publish ?snapshot
    ?reset
  case lsm => exact fun _ _ e h => h.lsmEffect e
  case echo => exact fun _ _ hb h => h.echo hb
  case host => exact fun _ m h => h.hostMove m
  case pop => exact fun _ h => h.afterPop
  case publish => exact fun _ f h => h.publish _ f.groups.count
  case snapshot => exact fun _ h => h.hostSnapshot
  case reset => exact fun s _ => uplinkLegal_of_empty rfl rfl rfl rfl
  all_goals exact fun _ _ h => h.congr rfl rfl rfl rfl rfl rfl rfl

/-- Settles O55: nothing has been sent and the outbox is empty. -/
theorem resetUplinkLegal : Obligations.ResetUplinkLegal :=
  uplinkLegal_of_empty rfl rfl rfl rfl

end Sys2Proof
end

section
/-! What leaves `rx` (42_link_fsm.md R151 (b)): whole validated frames, pairs in `Syncing`, and
everything at `RESET`. -/

namespace Sys2Proof.Machine

open Sys2Proof

/-- A control frame whose checksum is right validates (40_codec.md R95). -/
theorem validateControl_controlBytes {p : Params} {gs : Groups} {st q c : Byte}
    (hc : check p (controlBytes gs st q c) = true) :
    validateControl p (controlBytes gs st q c) = some gs.count :=
  validateControl_eq_some_iff.2 ⟨shapeOf_count gs, controlBytes_length gs st q c, hc⟩

/-- What may leave `rx` between two states, short of a reset (42_link_fsm.md R151 (b)). -/
def RxLoss (s t : State) : Prop :=
  (∃ more, t.rx = s.rx ++ more) ∨
  (s.state = .syncing ∧ t.state = .syncing ∧ ∃ b0 b1, s.rx = b0 :: b1 :: t.rx) ∨
  ∃ f, s.rx = f ++ t.rx ∧
    ((∃ G, validateControl s.params f = some G) ∨ ∃ d, validateLink s.params f = some d)

theorem RxLoss.of_append {s t : State} (more : List Byte) (h : t.rx = s.rx ++ more) :
    RxLoss s t := .inl ⟨more, h⟩

theorem RxLoss.of_eq {s t : State} (h : t.rx = s.rx) : RxLoss s t :=
  .of_append [] (h.trans (List.append_nil _).symm)

/-- A step of the LSM drops a pair, one frame or nothing, by the rows of the transition table. -/
theorem rxLoss_of_lsmEffect {s t : State} (e : LsmEffect s t) : RxLoss s t := by
  cases e with
  | resync b0 b1 r hs hr => exact .inr (.inl ⟨hs, hs, b0, b1, hr⟩)
  | accept gs st q c rest hs hr hc =>
    have hrest := (acceptControl_accepted hr).rx
    exact .inr (.inr ⟨_, hrest.symm ▸ hr, .inl ⟨_, validateControl_controlBytes hc⟩⟩)
  | link f rest d st tDl hr hv => exact .inr (.inr ⟨f, hr, .inr ⟨d, hv⟩⟩)
  | build item => exact .of_eq (afterPop_rx s)
  | wait | error | silent | transmit => exact .of_eq rfl

/-- Of the operation rows only `RESET` touches `rx`. -/
theorem rxLoss_of_operation {i : Instr} {s t : State} (hi : placeOf i = .opNumber)
    (h : exec i s = .next t) : RxLoss s t ∨ i = .reset := by
  obtain ⟨r, rfl⟩ | ⟨item, rfl⟩ | ⟨r, rfl⟩ | ⟨f, -, rfl⟩ | rfl | ⟨rfl, -⟩ := exec_operation hi h
  · exact .inl (.of_eq rfl)
  · exact .inl (.of_eq (pushItem_rx item s))
  · exact .inl (.of_eq (afterPop_rx s))
  · exact .inl (.of_eq (publish_spec _ _ s).rx)
  · exact .inl (.of_eq (hostSnapshot_rx s))
  · exact .inr rfl

theorem rxLoss_of_runMove {m : Move} {s t : State} (h : runMove m s = .next t) :
    RxLoss s t ∨ m = .call .reset := by
  obtain ⟨-, rfl⟩ | ⟨b, -, rfl⟩ | ⟨b, -, -, -, rfl⟩ | ⟨n, -, rfl⟩ | ⟨hm, -, rfl⟩ |
    ⟨i, rfl, hi, he⟩ := runMove_next h
  · exact .inl (rxLoss_of_lsmEffect (lsmStep_effect s))
  · exact .inl (.of_append [b] rfl)
  · exact .inl (.of_append [b] rfl)
  · exact .inl (.of_eq rfl)
  · exact .inl (.of_eq (hostMove_rx hm s))
  · exact (rxLoss_of_operation hi he).imp_right (congrArg Move.call)

/-- Settles O58: the LSM's step or the first move, which taking it off the agenda leaves as it
is. -/
theorem rxLosesOnlyFramesAndPairs : Obligations.RxLosesOnlyFramesAndPairs := by
  intro s t hstep
  have hloss : RxLoss s t ∨ ∃ ms, s.agenda = .call .reset :: ms := by
    obtain ⟨-, rfl⟩ | ⟨m, ms, ha, hm⟩ := step_next hstep
    · exact .inl (rxLoss_of_lsmEffect (lsmStep_effect s))
    · obtain hloss | rfl := rxLoss_of_runMove hm
      · exact .inl hloss
      · exact .inr ⟨ms, ha⟩
  simpa only [RxLoss, or_assoc] using hloss

end Sys2Proof.Machine
end

section
/-! Resynchronisation (42_link_fsm.md R152): each bad pair costs one step, then the frame is
accepted. -/

namespace Sys2Proof.Machine

open Sys2Proof

/-- A run goes on from where its first step leads. -/
theorem core_run_succ {M : Host.Core} {s t : M.State} (h : M.step s = .next t) (k : Nat) :
    M.run (k + 1) s = M.run k t := by
  rw [Host.Core.run, h]

/-- `n` failed attempts in `Syncing` later, with `rest` left in `rx`. -/
def afterBadPairs (n : Nat) (rest : List Byte) (s : State) : State :=
  { s with rx := rest, events := s.events ++ List.replicate n .syncLoss }

theorem afterBadPairs_zero (s : State) : afterBadPairs 0 s.rx s = s := by
  simp [afterBadPairs]

theorem afterBadPairs_afterBadPairs (m n : Nat) (r r' : List Byte) (s : State) :
    afterBadPairs n r (afterBadPairs m r' s) = afterBadPairs (m + n) r s := by
  simp [afterBadPairs]

/-- One failed attempt of the LSM in `Syncing` (R140). -/
theorem step_badPair {s : State} {b0 b1 : Byte} {rest : List Byte}
    (hl : s.params.linkReady = true) (hp : paramsOk s.params = true) (ha : s.agenda = [])
    (hs : s.state = .syncing) (hr : s.rx = b0 :: b1 :: rest) (hshape : ∀ G, ¬ ShapeOf b0 b1 G) :
    step s = .next (afterBadPairs 1 rest s) := by
  rw [step_idle hl hp ha, lsmStep_of_syncing hs]
  exact exec_syncing_of_bad hr (tryControl_noShape hr hshape)

/-- As many steps as bad pairs drop them all, each with `SyncLoss`. -/
theorem run_badPairs (pairs : List (Byte × Byte)) {s : State} {tail : List Byte}
    (hl : s.params.linkReady = true) (hp : paramsOk s.params = true) (ha : s.agenda = [])
    (hs : s.state = .syncing) (hshape : ∀ x ∈ pairs, ∀ G, ¬ ShapeOf x.1 x.2 G)
    (hr : s.rx = pairs.flatMap (fun x => [x.1, x.2]) ++ tail) (k : Nat) :
    Host.Core.run core (pairs.length + k) s =
      Host.Core.run core k (afterBadPairs pairs.length tail s) := by
  induction pairs generalizing s with
  | nil =>
    obtain rfl : s.rx = tail := hr
    rw [List.length_nil, Nat.zero_add, afterBadPairs_zero]
  | cons x pairs ih =>
    obtain ⟨hx, hpairs⟩ := List.forall_mem_cons.1 hshape
    have hstep := step_badPair hl hp ha hs hr hx
    have hrest := ih (s := afterBadPairs 1 _ s) hl hp ha hs hpairs rfl
    rw [afterBadPairs_afterBadPairs, Nat.add_comm 1] at hrest
    rw [List.length_cons, Nat.add_right_comm]
    exact (core_run_succ hstep _).trans hrest

/-- The LSM accepts a control frame of right checksum in `Syncing` (R140). -/
theorem step_controlFrame {s : State} {gs : Groups} {st q c : Byte} {rest : List Byte}
    (hl : s.params.linkReady = true) (hp : paramsOk s.params = true) (ha : s.agenda = [])
    (hs : s.state = .syncing) (hr : s.rx = controlBytes gs st q c ++ rest)
    (hc : check s.params (controlBytes gs st q c) = true) :
    ∃ t, step s = .next t ∧ Accepted s t gs st q rest :=
  ⟨_, (step_idle hl hp ha).trans (congrArg _ (lsmStep_controlFrame hr hc (.inl hs))),
    acceptControl_accepted hr⟩

/-- Settles O60: the pairs, then the step that accepts the frame. -/
theorem resyncAfterEvenPrefix : Obligations.ResyncAfterEvenPrefix := by
  intro pairs s gs st q c rest hl hp ha hs hshape hc hr
  rw [List.append_assoc] at hr
  have hpairs := run_badPairs pairs hl hp ha hs hshape hr
  obtain ⟨t, hstep, haccepted⟩ := step_controlFrame (rest := rest)
    (s := afterBadPairs pairs.length (controlBytes gs st q c ++ rest) s) hl hp ha hs rfl hc
  exact ⟨hpairs 0, t, (hpairs 1).trans (core_run_succ hstep 0), haccepted.state, haccepted.rx,
    haccepted.block, haccepted.generation⟩

end Sys2Proof.Machine
end

section
/-! The outbox as a queue of at most eight items (43_outbox.md R170 to R173). The two updates of the
ring are dropping the oldest item and storing a newest one; `HOST_PUSH` and `POP` are made of
them. -/

namespace Sys2Proof.Machine

open Sys2Proof

/-! ### The next states -/

/-- Settles O25, by whether the ring is full. -/
theorem hostPushResult : Obligations.HostPushResult := by
  intro item s
  refine ⟨fun hfull => congrArg Host.Outcome.next ?_, fun hroom => congrArg Host.Outcome.next ?_⟩
  · rw [pushItem, dropOldest_full hfull]
    rfl
  · rw [pushItem, dropOldest_not_full hroom]
    rfl

theorem popped_of_empty {s : State} (h : s.head = s.tail) : popped s = none := if_pos h

theorem popped_of_not_empty {s : State} (h : s.head ≠ s.tail) :
    popped s = some (slotAt s.slots s.tail) := if_neg h

theorem afterPop_of_empty {s : State} (h : s.head = s.tail) : afterPop s = s := if_pos h

theorem afterPop_of_not_empty {s : State} (h : s.head ≠ s.tail) :
    afterPop s = { s with tail := s.tail + 1 } := if_neg h

/-- The row answers the item popped. -/
theorem exec_pop (s : State) :
    exec .pop s = .next (answer (.item (popped s)) (afterPop s)) := rfl

/-- Settles O26, by whether the ring is empty. -/
theorem popResult : Obligations.PopResult := by
  intro s
  refine ⟨fun hempty => ?_, fun hitem => ?_⟩ <;> rw [exec_pop]
  · rw [popped_of_empty hempty, afterPop_of_empty hempty]
    rfl
  · rw [popped_of_not_empty hitem, afterPop_of_not_empty hitem]
    rfl

/-! ### The items held -/

theorem outboxItems_of_empty {s : State} (h : s.head = s.tail) : outboxItems s = [] := by
  rw [outboxItems, (outboxCount_eq_zero s).2 h]
  rfl

/-- The oldest item stands at `tail`; the others are what an advanced `tail` holds (R170). -/
theorem outboxItems_of_not_empty {s : State} (h : s.head ≠ s.tail) :
    outboxItems s = slotAt s.slots s.tail :: outboxItems { s with tail := s.tail + 1 } := by
  have hcount : outboxCount s = outboxCount { s with tail := s.tail + 1 } + 1 := by
    simp only [outboxCount]
    bv_omega
  have hindex (k : Nat) : s.tail + BitVec.ofNat 8 (k + 1) = s.tail + 1 + BitVec.ofNat 8 k := by
    bv_omega
  rw [outboxItems, hcount, List.range_succ_eq_map, List.map_cons, List.map_map, BitVec.add_zero,
    outboxItems]
  exact congrArg (_ :: ·) (List.map_congr_left fun k _ =>
    congrArg (slotAt s.slots) (hindex k))

/-- A free slot takes a new item behind those held: its slot is the slot of none of them, since
there are at most seven (R171). -/
theorem outboxItems_store (item : TelemetryItem) {s : State} (h : outboxCount s < 8) :
    outboxItems { s with slots := setSlot s.slots s.head item, head := s.head + 1 } =
      outboxItems s ++ [item] := by
  have hcount : outboxCount { s with
      slots := setSlot s.slots s.head item, head := s.head + 1 } = outboxCount s + 1 := by
    simp only [outboxCount] at h ⊢
    bv_omega
  have hhead : s.tail + BitVec.ofNat 8 (outboxCount s) = s.head := by
    simp only [outboxCount]
    bv_omega
  have hkept (k : Nat) (hk : k < outboxCount s) :
      slotAt (setSlot s.slots s.head item) (s.tail + BitVec.ofNat 8 k) =
        slotAt s.slots (s.tail + BitVec.ofNat 8 k) := by
    refine slotAt_setSlot_ne _ ?_ _
    rw [← hhead, slotOf_add, slotOf_add]
    omega
  rw [outboxItems, hcount, List.range_succ, List.map_append, List.map_singleton, hhead,
    slotAt_setSlot_same, outboxItems]
  exact congrArg (· ++ [item]) (List.map_congr_left fun k hk => hkept k (List.mem_range.1 hk))

/-! ### What the operations hold -/

theorem popped_eq_head? (s : State) : popped s = (outboxItems s).head? := by
  by_cases h : s.head = s.tail
  · rw [popped_of_empty h, outboxItems_of_empty h, List.head?_nil]
  · rw [popped_of_not_empty h, outboxItems_of_not_empty h, List.head?_cons]

theorem outboxItems_afterPop (s : State) : outboxItems (afterPop s) = (outboxItems s).tail := by
  by_cases h : s.head = s.tail
  · rw [afterPop_of_empty h, outboxItems_of_empty h, List.tail_nil]
  · rw [afterPop_of_not_empty h, outboxItems_of_not_empty h, List.tail_cons]

theorem outboxItems_dropOldest (s : State) :
    outboxItems (dropOldest s) =
      if outboxCount s = 8 then (outboxItems s).tail else outboxItems s := by
  by_cases h : outboxCount s = 8
  · have hfull : s.head - s.tail = 8 := (outboxCount_eq_cap s).1 h
    have hitem : s.head ≠ s.tail := by bv_omega
    rw [if_pos h, dropOldest_full hfull, outboxItems_of_not_empty hitem, List.tail_cons]
    rfl
  · rw [if_neg h, dropOldest_not_full fun hfull => h ((outboxCount_eq_cap s).2 hfull)]

theorem outboxItems_pushItem (item : TelemetryItem) {s : State} (h : outboxCount s ≤ 8) :
    outboxItems (pushItem item s) =
      (if outboxCount s = 8 then (outboxItems s).tail else outboxItems s) ++ [item] := by
  rw [← outboxItems_dropOldest]
  exact outboxItems_store item (outboxCount_dropOldest_lt h)

/-- Settles O27: the items and the count after each operation. -/
theorem outboxIsDropOldestQueue : Obligations.OutboxIsDropOldestQueue := by
  intro s h
  refine ⟨fun item => ⟨pushItem item s, rfl, outboxCount_pushItem_le item h,
    outboxItems_pushItem item h⟩, _, exec_pop s, (outboxCount_afterPop_le s).trans h, ?_, ?_⟩
  · rw [answer_ret, popped_eq_head?]
  · exact outboxItems_afterPop s

/-! ### The last eight items -/

theorem rtake_of_length_le {α : Type*} {l : List α} {n : Nat} (h : l.length ≤ n) :
    l.rtake n = l := by
  rw [List.rtake, Nat.sub_eq_zero_of_le h, List.drop_zero]

theorem rtake_rtake {α : Type*} (m n : Nat) (l : List α) :
    (l.rtake n).rtake m = l.rtake (min m n) := by
  simp only [List.rtake_eq_reverse_take_reverse, List.reverse_reverse, List.take_take]

/-- A push keeps the last eight of the items held and the new one (R173 (b)). -/
theorem outboxItems_pushItem_eq_rtake (item : TelemetryItem) {s : State} (h : outboxCount s ≤ 8) :
    outboxItems (pushItem item s) = (outboxItems s ++ [item]).rtake 8 := by
  rw [outboxItems_pushItem item h, List.rtake_concat_succ]
  congr 1
  split
  case isTrue hfull => rw [List.rtake, outboxItems_length, hfull, List.drop_one]
  case isFalse hroom =>
    rw [rtake_of_length_le]
    rw [outboxItems_length]
    omega

/-- Any number of pushes keeps at most eight items (R173 (c)). -/
theorem outboxCount_pushes_le (items : List TelemetryItem) {s : State} (h : outboxCount s ≤ 8) :
    outboxCount (items.foldl (fun t item => pushItem item t) s) ≤ 8 := by
  induction items generalizing s with
  | nil => exact h
  | cons item items ih => exact ih (outboxCount_pushItem_le item h)

/-- Settles O28, by induction on the pushes from the last one. -/
theorem outboxKeepsTheLastEight : Obligations.OutboxKeepsTheLastEight := by
  intro items s h
  change _ = (outboxItems s ++ items).rtake 8
  induction items using List.reverseRecOn with
  | nil =>
    rw [List.append_nil, rtake_of_length_le ((outboxItems_length s).trans_le h)]
    rfl
  | append_singleton items item ih =>
    calc outboxItems ((items ++ [item]).foldl (fun t item => pushItem item t) s)
      _ = ((outboxItems s ++ items).rtake 8 ++ [item]).rtake 8 := by
        rw [List.foldl_concat, outboxItems_pushItem_eq_rtake item (outboxCount_pushes_le items h),
          ih]
      _ = (outboxItems s ++ items ++ [item]).rtake 8 := by
        rw [List.rtake_concat_succ, List.rtake_concat_succ, rtake_rtake, min_eq_left (by decide)]
      _ = (outboxItems s ++ (items ++ [item])).rtake 8 := by rw [List.append_assoc]

end Sys2Proof.Machine
end

section
/-! `PUBLISH` (44_shared_block.md R180 to R185): what it leaves in the block and elsewhere under any
plan, and what the block holds before and after its 27th field store. -/

namespace Sys2Proof.Machine

open Sys2Proof

/-- The row publishes the frame of its body (R180). -/
theorem exec_publish (f : ControlBody) (s : State) :
    exec (.publish f) s = .next (publish (controlFrame s.params f) f.groups.count s) := rfl

/-- The first plan left is the one the publish runs under (log 7). -/
theorem publish_plan (f : List Byte) (G : Nat) (s : State) (p : List PublishMove)
    (ps : List (List PublishMove)) :
    publish f G { s with plans := p :: ps } =
      runPublish p (publishStores f G) { s with plans := ps } := rfl

theorem publish_blockHolds (f : ControlBody) (p : Params) (s : State) :
    BlockHolds (publish (controlFrame p f) f.groups.count s) f.groups f.status f.quality :=
  (publish_spec (controlFrame p f) f.groups.count s).blockHolds

theorem loadField_publish_generation (f : List Byte) (G : Nat) (s : State) :
    loadField (publish f G s) .generation = (loadField s .generation + 1) % 2 ^ 32 :=
  (publish_spec f G s).generation

/-- Settles O29, by what a publish does to the block under any plan. -/
theorem publishResult : Obligations.PublishResult := by
  intro f s
  have hspec := publish_spec (controlFrame s.params f) f.groups.count s
  exact ⟨_, exec_publish f s, publish_blockHolds f s.params s, hspec.generation,
    fun a ha => hspec.offField a (untouched_offField ha)⟩

/-- Where the generation store is all that is left of a publish, the block holds the frame (R182 to
R184). -/
theorem blockHolds_of_runPublish_eq_bumpGeneration {f : ControlBody} {p : Params} {s u : State}
    {ps : List PublishMove} (h : runPublish ps
      (publishStores (controlFrame p f) f.groups.count) s = bumpGeneration u) :
    BlockHolds u f.groups f.status f.quality := by
  have hspec := runPublish_spec ps _ s
    (publishStores_no_generation (controlFrame p f) f.groups.count) dataFields_nodup
  rw [h] at hspec
  exact BlockHolds.of_bumpGeneration hspec.blockHolds

/-- An accepted control frame is published with the frame off `rx` (42_link_fsm.md R140, R141). -/
theorem acceptControl_eq_of_exec_publish {s u : State} {f : ControlBody} {c : Byte}
    {rest : List Byte} (h : s.rx = controlBytes f.groups f.status f.quality c ++ rest)
    (hc : check s.params (controlBytes f.groups f.status f.quality c) = true)
    (hu : exec (.publish f) { s with rx := rest } = .next u) :
    acceptControl (controlBytes f.groups f.status f.quality c) f.groups.count s =
      { u with state := .readDownlink } := by
  cases hu
  exact acceptControl_eq_publish h hc

/-- Settles O30: the frame of a publish, the place its stores have in any plan, and the publish of
an accepted frame. -/
theorem publishFrame : Obligations.PublishFrame := by
  refine ⟨fun f s t h => ?frame, fun f s pre ps hpre => ?order, fun f s u c rest h hc hu => ?accept⟩
  case frame =>
    have hspec := publish_spec (controlFrame s.params f) f.groups.count s
    cases h
    exact ⟨hspec.state, hspec.tDl, hspec.txbuf, hspec.rx, hspec.tx, hspec.echoed, hspec.cyc,
      hspec.params, hspec.agenda, hspec.plans, hspec.freeCtr, hostSideKept_publish _ _ s⟩
  case order =>
    obtain ⟨u, left, hlen, hleft, hgen, hrun⟩ := runPublish_prefix pre
      (publishStores (controlFrame s.params f) f.groups.count) { s with plans := ps }
      (publishStores_no_generation _ _) hpre
    refine ⟨u, left, hlen, hleft, hgen, fun hnil => ?_, fun m post => ?_, fun k post hnil => ?_⟩
    · subst hnil
      exact blockHolds_of_runPublish_eq_bumpGeneration (hrun [])
    · rw [exec_publish, publish_plan]
      exact congrArg _ (hrun (.host m :: post))
    · subst hnil
      have hu : loadField u .generation = loadField s .generation := hgen
      rw [exec_publish, publish_plan, ← hu]
      exact congrArg _ (hrun (.store k :: post))
  case accept =>
    have hok := tryControl_frame_goodSum h hc
    rw [exec_syncing_of_ok hok, exec_readControl_of_ok hok,
      acceptControl_eq_of_exec_publish h hc hu]
    exact ⟨rfl, rfl⟩

end Sys2Proof.Machine
end

section
/-! Who changes shared memory (44_shared_block.md R181, R190; 42_link_fsm.md R151 (a)): HOST never,
the LSM where it accepts a control frame, and the calls of `PUBLISH` and `RESET` (log 19). -/

namespace Sys2Proof.Machine

open Sys2Proof

/-! ### HOST -/

/-- Memory, the LSM's registers and the streams are as they were (60_exceptions.md R231). -/
def LsmSideKept (s t : State) : Prop :=
  t.mem = s.mem ∧ t.state = s.state ∧ t.tDl = s.tDl ∧ t.txbuf = s.txbuf ∧ t.rx = s.rx ∧
    t.tx = s.tx ∧ t.echoed = s.echoed ∧ t.cyc = s.cyc ∧ t.params = s.params

theorem lsmSideKept_hostMove (m : HostMove) (s : State) : LsmSideKept s (hostMove m s) := by
  simp [LsmSideKept]

theorem lsmSideKept_hostSnapshot (s : State) : LsmSideKept s (hostSnapshot s) := by
  simp [LsmSideKept]

/-- Settles O35: a load or a push is a step of HOST, as a move or called; a poll is made of
loads. -/
theorem hostNeverWritesTheBlock : Obligations.HostNeverWritesTheBlock := by
  intro s t m ms hm ha hstep
  obtain ⟨hnil, -⟩ | ⟨m', ms', ha', hrun⟩ := step_next hstep
  · cases ha.symm.trans hnil
  · cases ha.symm.trans ha'
    obtain ⟨h, rfl⟩ | ⟨item, rfl⟩ | rfl := hm <;> cases hrun
    · exact lsmSideKept_hostMove h { s with agenda := ms }
    · exact lsmSideKept_hostMove (.push item) { s with agenda := ms }
    · exact lsmSideKept_hostSnapshot { s with agenda := ms }

/-! ### The step -/

/-- Between the two states the LSM has accepted and published a control frame (42_link_fsm.md R140,
R141). -/
def FramePublished (s t : State) : Prop :=
  (s.state = .syncing ∨ s.state = .readControl) ∧ ∃ gs st q c rest,
    s.rx = controlBytes gs st q c ++ rest ∧
    check s.params (controlBytes gs st q c) = true ∧ t.state = .readDownlink ∧
    BlockHolds t gs st q ∧
    loadField t .generation = (loadField s .generation + 1) % 2 ^ 32

/-- Of the transition table's rows only an accepted control frame touches memory. -/
theorem lsmEffect_mem {s t : State} (e : LsmEffect s t) : t.mem = s.mem ∨ FramePublished s t := by
  cases e with
  | accept gs st q c rest hs hr hc =>
    have haccepted := acceptControl_accepted hr
    exact .inr ⟨hs, gs, st, q, c, rest, hr, hc, haccepted.state, haccepted.block,
      haccepted.generation⟩
  | build item => exact .inl (afterPop_mem s)
  | wait | resync | error | link | silent | transmit => exact .inl rfl

/-- Of the operation rows only `PUBLISH` and `RESET` touch memory. -/
theorem exec_operation_mem {i : Instr} {s t : State} (hi : placeOf i = .opNumber)
    (h : exec i s = .next t) : t.mem = s.mem ∨ (∃ f, i = .publish f) ∨ i = .reset := by
  obtain ⟨r, rfl⟩ | ⟨item, rfl⟩ | ⟨r, rfl⟩ | ⟨f, rfl, -⟩ | rfl | ⟨rfl, -⟩ := exec_operation hi h
  · exact .inl rfl
  · exact .inl (pushItem_mem item s)
  · exact .inl (afterPop_mem s)
  · exact .inr (.inl ⟨f, rfl⟩)
  · exact .inl (hostSnapshot_mem s)
  · exact .inr (.inr rfl)

theorem runMove_mem {m : Move} {s t : State} (h : runMove m s = .next t) :
    t.mem = s.mem ∨ FramePublished s t ∨ (∃ f, m = .call (.publish f)) ∨ m = .call .reset := by
  obtain ⟨-, rfl⟩ | ⟨b, -, rfl⟩ | ⟨b, -, -, -, rfl⟩ | ⟨n, -, rfl⟩ | ⟨hm, -, rfl⟩ |
    ⟨i, rfl, hi, he⟩ := runMove_next h
  · exact (lsmEffect_mem (lsmStep_effect s)).imp_right .inl
  · exact .inl rfl
  · exact .inl rfl
  · exact .inl rfl
  · exact .inl (hostMove_mem hm s)
  · obtain hmem | ⟨f, rfl⟩ | rfl := exec_operation_mem hi he
    · exact .inl hmem
    · exact .inr (.inr (.inl ⟨f, rfl⟩))
    · exact .inr (.inr (.inr rfl))

/-- Settles O57: the LSM's step or the first move, which taking it off the agenda leaves as it
is. -/
theorem memoryChangesOnlyByPublish : Obligations.MemoryChangesOnlyByPublish := by
  intro s t hstep
  obtain ⟨-, rfl⟩ | ⟨m, ms, ha, hm⟩ := step_next hstep
  · exact (lsmEffect_mem (lsmStep_effect s)).imp_right .inl
  · obtain hmem | hframe | ⟨f, rfl⟩ | rfl := runMove_mem hm
    · exact .inl hmem
    · exact .inr (.inl hframe)
    · exact .inr (.inr (.inl ⟨f, ms, ha⟩))
    · exact .inr (.inr (.inr ⟨ms, ha⟩))

end Sys2Proof.Machine
end

section
/-! HOST's loads one at a time, a whole poll, and the poll that overlaps a publish
(44_shared_block.md R185, R186, R188). -/

namespace Sys2Proof.Machine

open Sys2Proof

/-! ### The generation as a word -/

theorem generation_toNat (s : State) :
    (BitVec.ofNat 32 (loadField s .generation)).toNat = loadField s .generation :=
  (BitVec.toNat_ofNat _ _).trans (Nat.mod_eq_of_lt (loadField_lt s .generation))

theorem generation_eq_iff (s : State) (w : Word) :
    BitVec.ofNat 32 (loadField s .generation) = w ↔ loadField s .generation = w.toNat := by
  rw [← BitVec.toNat_inj, generation_toNat]

/-! ### Fields of a copy -/

/-- The tag stands in no data field. -/
theorem copyAgrees_withGeneration (c : Snapshot) (g : Word) {f : Field} (h : f ≠ .generation) :
    CopyAgrees c { c with generation := g } f := by
  cases f with
  | generation => exact absurd rfl h
  | _ => rfl

/-- What a load gives is all that counts. -/
theorem copyHolds_congr {s t : State} {c : Snapshot} {f : Field}
    (hload : loadField t f = loadField s f) (h : CopyHolds s c f) : CopyHolds t c f := by
  cases f <;> exact h.trans hload.symm

/-! ### Each load -/

/-- The attempt the first load begins: the generation it loaded, and every data field still to
load (R186). -/
def newCopy (s : State) : Copy where
  g1 := BitVec.ofNat 32 (loadField s .generation)
  pending := dataFields
  partialCopy := blankCopy (BitVec.ofNat 32 (loadField s .generation))

theorem hostLoad_of_no_copy {s : State} (hcopy : s.copy = none) (pick : Nat) :
    hostLoad pick s = hostFirstLoad s := by
  rw [hostLoad, hcopy]

theorem hostLoad_of_seen {s : State} (hcopy : s.copy = none)
    (h : loadField s .generation = s.lastSeen.toNat) (pick : Nat) :
    hostLoad pick s = { s with ret := .poll .noChange } := by
  rw [hostLoad_of_no_copy hcopy]
  exact if_pos ((generation_eq_iff s s.lastSeen).2 h)

theorem hostLoad_of_not_seen {s : State} (hcopy : s.copy = none)
    (h : loadField s .generation ≠ s.lastSeen.toNat) (pick : Nat) :
    hostLoad pick s = { s with copy := some (newCopy s) } := by
  rw [hostLoad_of_no_copy hcopy]
  exact if_neg (mt (generation_eq_iff s s.lastSeen).1 h)

theorem hostLoad_of_no_pending {s : State} {c : Copy} (hcopy : s.copy = some c)
    (hnil : c.pending = []) (pick : Nat) : hostLoad pick s = hostLastLoad c s := by
  rw [hostLoad, hcopy]
  exact if_pos hnil

/-- A field load puts the field picked into the copy and takes it off those still to load, nothing
more (R186, D36). -/
theorem hostLoad_of_pending {s : State} {c : Copy} (hcopy : s.copy = some c)
    (h : c.pending ≠ []) (pick : Nat) :
    ∃ (d : Copy) (f : Field), c.pending[pick % c.pending.length]? = some f ∧
      hostLoad pick s = { s with copy := some d } ∧ d.g1 = c.g1 ∧
      d.pending = c.pending.eraseIdx (pick % c.pending.length) ∧
      (f ≠ .generation → CopyHolds s d.partialCopy f) ∧
      ∀ g, g ≠ f ∨ g = .generation → CopyAgrees c.partialCopy d.partialCopy g := by
  have hload : hostLoad pick s = hostFieldLoad pick c s := by
    rw [hostLoad, hcopy]
    exact if_neg h
  have hk : pick % c.pending.length < c.pending.length :=
    Nat.mod_lt _ (List.length_pos_iff.2 h)
  refine ⟨_, c.pending.getD (pick % c.pending.length) .generation, ?_, hload, rfl, rfl,
    fun hf => copyField_holds s hf c.partialCopy, fun g hg => copyField_agrees hg _ _⟩
  rw [List.getD_eq_getElem _ _ hk, List.getElem?_eq_getElem hk]

theorem hostLastLoad_of_changed {s : State} {c : Copy}
    (h : loadField s .generation ≠ c.g1.toNat) :
    hostLastLoad c s =
      { s with copy := none, events := s.events ++ [.snapshotRetry], ret := .poll .retry } :=
  if_pos (mt (generation_eq_iff s c.g1).1 h)

theorem hostLastLoad_of_same {s : State} {c : Copy} (h : loadField s .generation = c.g1.toNat) :
    hostLastLoad c s =
      { s with copy := none, snap := some { c.partialCopy with generation := c.g1 },
               lastSeen := c.g1, ret := .poll .newData } :=
  if_neg (not_not.2 ((generation_eq_iff s c.g1).2 h))

/-- Settles O33, one load for each clause. -/
theorem hostLoadStep : Obligations.HostLoadStep := by
  intro s ms pick hl hp ha
  have hstep {t : State} (h : hostLoad pick { s with agenda := ms } = t) : step s = .next t :=
    (step_move hl hp ha).trans (congrArg _ h)
  refine ⟨fun hc h => ?_, fun hc h => ⟨newCopy s, ?_, generation_toNat s, rfl⟩, fun c hc h => ?_,
    fun c hc hnil h => ?_, fun c hc hnil h => ?_⟩
  · exact hstep (hostLoad_of_seen (s := { s with agenda := ms }) hc h pick)
  · exact hstep (hostLoad_of_not_seen (s := { s with agenda := ms }) hc h pick)
  · obtain ⟨d, f, hf, hload, hd⟩ := hostLoad_of_pending (s := { s with agenda := ms }) hc h pick
    exact ⟨d, f, hf, hstep hload, hd⟩
  · refine hstep ((hostLoad_of_no_pending (s := { s with agenda := ms }) hc hnil pick).trans ?_)
    exact hostLastLoad_of_changed (s := { s with agenda := ms }) h
  · refine hstep ((hostLoad_of_no_pending (s := { s with agenda := ms }) hc hnil pick).trans ?_)
    exact hostLastLoad_of_same (s := { s with agenda := ms }) h

/-! ### A whole poll -/

theorem finishPoll_eq_hostLoads {s : State} {c : Copy} (hcopy : s.copy = some c) :
    finishPoll s = hostLoads (c.pending.length + 1) s := by
  rw [finishPoll, hcopy]

/-- The loads that end an attempt: those of the fields still to load, then that of the generation
(R186). -/
theorem finishPoll_eq_hostLastLoad {s : State} {c : Copy} (hcopy : s.copy = some c) :
    ∃ d : Snapshot,
      finishPoll s = hostLastLoad { g1 := c.g1, pending := [], partialCopy := d } s ∧
      (∀ f ∈ c.pending, f ≠ .generation → CopyHolds s d f) ∧
      ∀ f, f ∉ c.pending ∨ f = .generation → CopyAgrees c.partialCopy d f := by
  obtain ⟨d, hloads, hholds, hagrees⟩ := hostLoads_pending s c
  have hs : { s with copy := some c } = s := by rw [← hcopy]
  refine ⟨d, ?_, hholds, hagrees⟩
  rw [hs] at hloads
  rw [finishPoll_eq_hostLoads hcopy, hostLoads_add, hloads]
  exact hostLoad_of_no_pending
    (s := { s with copy := some { g1 := c.g1, pending := [], partialCopy := d } }) rfl rfl 0

theorem finishPoll_of_changed {s : State} {c : Copy} (hcopy : s.copy = some c)
    (h : loadField s .generation ≠ c.g1.toNat) :
    finishPoll s =
      { s with copy := none, events := s.events ++ [.snapshotRetry], ret := .poll .retry } := by
  obtain ⟨d, hd, -, -⟩ := finishPoll_eq_hostLastLoad hcopy
  exact hd.trans (hostLastLoad_of_changed h)

/-- An attempt whose generation still stands is accepted, with what it loads now and what it had
loaded before (R186). -/
theorem finishPoll_of_same {s : State} {c : Copy} (hcopy : s.copy = some c)
    (h : loadField s .generation = c.g1.toNat) :
    ∃ d : Snapshot,
      finishPoll s =
        { s with copy := none, snap := some d, lastSeen := c.g1, ret := .poll .newData } ∧
      d.generation = c.g1 ∧ (∀ f ∈ c.pending, CopyHolds s d f) ∧
      ∀ f, f ∉ c.pending → f ≠ .generation → CopyAgrees c.partialCopy d f := by
  obtain ⟨d, hd, hholds, hagrees⟩ := finishPoll_eq_hostLastLoad hcopy
  refine ⟨{ d with generation := c.g1 }, ?_, rfl, fun f hf => ?_, fun f hf hg => ?_⟩
  · exact hd.trans (hostLastLoad_of_same h)
  · by_cases hg : f = .generation
    · rw [hg]
      exact h.symm
    · exact copyHolds_of_agrees (copyAgrees_withGeneration d c.g1 hg) (hholds f hf hg)
  · exact copyAgrees_trans (hagrees f (.inl hf)) (copyAgrees_withGeneration d c.g1 hg)

theorem exec_hostSnapshot_of_copy {s : State} {c : Copy} (hcopy : s.copy = some c) :
    exec .hostSnapshot s = .next (finishPoll s) :=
  congrArg Host.Outcome.next (by rw [hostSnapshot, hcopy])

theorem exec_hostSnapshot_of_no_copy {s : State} (hcopy : s.copy = none) :
    exec .hostSnapshot s = .next (finishPoll (hostLoad 0 s)) :=
  congrArg Host.Outcome.next (by rw [hostSnapshot, hostLoad, hcopy])

/-- Settles O32, by whether the generation is still the one the attempt began with. -/
theorem hostSnapshotEndsAttempt : Obligations.HostSnapshotEndsAttempt := by
  intro s c hcopy
  rw [exec_hostSnapshot_of_copy hcopy]
  refine ⟨fun h => congrArg _ (finishPoll_of_changed hcopy h), fun h => ?_⟩
  obtain ⟨d, hd, hspec⟩ := finishPoll_of_same hcopy h
  exact ⟨d, congrArg _ hd, hspec⟩

/-- Settles O31: the first load ends the poll, or begins an attempt the others end under the same
generation. -/
theorem hostSnapshotResult : Obligations.HostSnapshotResult := by
  intro s hcopy
  rw [exec_hostSnapshot_of_no_copy hcopy]
  refine ⟨fun h => ?seen, fun h => ?new⟩
  case seen =>
    rw [hostLoad_of_seen hcopy h, finishPoll]
    simp only [hcopy]
  case new =>
    rw [hostLoad_of_not_seen hcopy h]
    obtain ⟨d, hd, hgen, hholds, -⟩ := finishPoll_of_same
      (s := { s with copy := some (newCopy s) }) rfl (generation_toNat s).symm
    refine ⟨d, congrArg _ ?_, fun f => ?_⟩
    · rw [hd, hgen, ← hcopy]
    · by_cases hf : f = .generation
      · rw [hf]
        exact (congrArg BitVec.toNat hgen).trans (generation_toNat s)
      · exact copyHolds_congr rfl (hholds f (mem_dataFields f hf))

/-! ### A poll that overlaps a publish -/

/-- A poll ended with NewData under the generation of `s`, with the first `n` data fields of the
block of `s` and the others of the block of `t` (R188). -/
structure TornPoll (n : Nat) (s t : State) (c : Snapshot) : Prop where
  copy : t.copy = none
  ret : t.ret = .poll .newData
  snap : t.snap = some c
  lastSeen : t.lastSeen = c.generation
  generation : c.generation.toNat = loadField s .generation
  before : ∀ g ∈ dataFields.take n, CopyHolds s c g
  after : ∀ g ∈ dataFields.drop n, CopyHolds t c g

/-- The events of `overlapPlan`: `n + 1` loads, all field stores, the loads left, the generation
store (R185). -/
theorem runPublish_overlapPlan (n : Nat) {ws : List (Field × Nat)} (hws : ws.length = 27)
    (s : State) :
    runPublish (overlapPlan n) ws s =
      bumpGeneration (hostLoads (28 - n) (storeAll ws (hostLoads (n + 1) s))) := by
  rw [overlapPlan, List.append_assoc, List.append_assoc, runPublish_loads, ← hws,
    runPublish_stores, runPublish_loads]
  rfl

/-- The first `n + 1` loads of an attempt: the generation and `n` fields (R186). -/
theorem hostLoads_of_not_seen {s : State} {n : Nat} (hn : n ≤ 27) (hcopy : s.copy = none)
    (h : loadField s .generation ≠ s.lastSeen.toNat) :
    ∃ d : Snapshot,
      hostLoads (n + 1) s = { s with
        copy := some { newCopy s with pending := dataFields.drop n, partialCopy := d } } ∧
      ∀ f ∈ dataFields.take n, CopyHolds s d f := by
  obtain ⟨d, hloads, hholds, -⟩ := hostLoads_take n s (newCopy s) hn
  refine ⟨d, ?_, fun f hf => hholds f hf fun hg => ?_⟩
  · rw [hostLoads, hostLoad_of_not_seen hcopy h, hloads]
    rfl
  · exact dataFields_no_generation (hg ▸ List.mem_of_mem_take hf)

/-- A poll that overlaps the field stores of a publish ends before its generation store, so it is
accepted under the old generation, whatever fields it loaded before those stores. -/
theorem tornPoll_runPublish_overlapPlan {ws : List (Field × Nat)} (hws : ws.length = 27)
    (hdata : ∀ w ∈ ws, w.1 ≠ .generation) {s : State} {n : Nat} (hn : n ≤ 27)
    (hcopy : s.copy = none) (h : loadField s .generation ≠ s.lastSeen.toNat) :
    ∃ c, TornPoll n s (runPublish (overlapPlan n) ws s) c := by
  obtain ⟨d, hloads, hbefore⟩ := hostLoads_of_not_seen hn hcopy h
  rw [runPublish_overlapPlan n hws, hloads]
  generalize hv : storeAll ws _ = v
  have hvcopy :
      v.copy = some { newCopy s with pending := dataFields.drop n, partialCopy := d } := by
    rw [← hv, storeAll_eq]
  have hvgen : loadField v .generation = (newCopy s).g1.toNat := by
    rw [← hv, loadField_storeAll_generation _ _ hdata]
    exact (generation_toNat s).symm
  have hfinish : hostLoads (28 - n) v = finishPoll v := by
    have hlen : (dataFields.drop n).length + 1 = 28 - n := by
      rw [List.length_drop, show dataFields.length = 27 from rfl]
      omega
    rw [finishPoll_eq_hostLoads hvcopy, hlen]
  obtain ⟨c, hc, hgen, hafter, hkept⟩ := finishPoll_of_same hvcopy hvgen
  rw [hfinish, hc]
  refine ⟨c, rfl, rfl, rfl, hgen.symm, ?_, fun g hg => ?_, fun g hg => ?_⟩
  · rw [hgen]
    exact generation_toNat s
  · have hleft : g ∉ dataFields.drop n :=
      List.disjoint_take_drop dataFields_nodup (Nat.le_refl n) hg
    have hg' : g ≠ .generation := fun h =>
      dataFields_no_generation (h ▸ List.mem_of_mem_take hg)
    exact copyHolds_of_agrees (hkept g hleft hg') (hbefore g hg)
  · have hg' : g ≠ .generation := fun h =>
      dataFields_no_generation (h ▸ List.mem_of_mem_drop hg)
    exact copyHolds_congr (loadField_storeField_ne hg'.symm _ _) (hafter g hg)

theorem tornPoll_publish (f : List Byte) (G : Nat) {s : State} {n : Nat}
    {ps : List (List PublishMove)} (hn : n ≤ 27) (hplans : s.plans = overlapPlan n :: ps)
    (hcopy : s.copy = none) (h : loadField s .generation ≠ s.lastSeen.toNat) :
    ∃ c, TornPoll n s (publish f G s) c := by
  rw [publish, hplans]
  obtain ⟨c, htorn⟩ := tornPoll_runPublish_overlapPlan (publishStores_length f G)
    (publishStores_no_generation f G) (s := { s with plans := ps }) hn hcopy h
  exact ⟨c, { htorn with }⟩

/-! ### A run to a torn snapshot -/

/-- A frame of right checksum in `rx` in `Syncing` is published in the LSM's next move
(42_link_fsm.md R140). -/
theorem step_publish {s : State} {f : ControlBody} {ms : List Move}
    (hl : s.params.linkReady = true) (hp : paramsOk s.params = true)
    (ha : s.agenda = .lsm :: ms) (hs : s.state = .syncing)
    (hr : s.rx = controlFrame s.params f) :
    step s = .next (goTo .readDownlink (publish (controlFrame s.params f) f.groups.count
      { s with agenda := ms, rx := [] })) := by
  have hr' : s.rx = controlFrame s.params f ++ [] := hr.trans (List.append_nil _).symm
  have hc : check s.params (controlFrame s.params f) = true := check_concat_checksum _ _
  rw [step_move hl hp ha, runMove, lsmMove_eq,
    lsmStep_controlFrame (s := { s with agenda := ms }) hr' hc (.inl hs)]
  exact congrArg _ (acceptControl_eq_publish (s := { s with agenda := ms }) hr' hc)

/-- One step of the LSM whose publish a poll overlaps. -/
theorem run_overlapPlan {s : State} {f : ControlBody} {n : Nat} {ps : List (List PublishMove)}
    (hl : s.params.linkReady = true) (hp : paramsOk s.params = true) (ha : s.agenda = [.lsm])
    (hs : s.state = .syncing) (hr : s.rx = controlFrame s.params f) (hn : n ≤ 27)
    (hplans : s.plans = overlapPlan n :: ps) (hcopy : s.copy = none)
    (h : loadField s .generation ≠ s.lastSeen.toNat) :
    ∃ t c, Host.Core.run core 1 s = .next t ∧ TornPoll n s t c ∧
      BlockHolds t f.groups f.status f.quality ∧
      loadField t .generation = (loadField s .generation + 1) % 2 ^ 32 := by
  obtain ⟨c, htorn⟩ := tornPoll_publish (controlFrame s.params f) f.groups.count
    (s := { s with agenda := [], rx := [] }) hn hplans hcopy h
  exact ⟨_, c, core_run_succ (M := core) (step_publish hl hp ha hs hr) 0, { htorn with },
    publish_blockHolds f s.params { s with agenda := [], rx := [] },
    loadField_publish_generation _ _ { s with agenda := [], rx := [] }⟩

/-- The frame published first: every channel at the low end, quality 100. -/
def oldBody : ControlBody := { groups := .one 0, status := 0x00, quality := 0x64 }

/-- The frame published during the poll: every channel at the high end, quality 99. -/
def newBody : ControlBody := { groups := .one (2 ^ 88 - 1), status := 0x00, quality := 0x63 }

theorem slotValue_newBody_ne_oldBody :
    slotValue newBody.groups 0 ≠ slotValue oldBody.groups 0 := by
  simp [slotValue, rawOf, pulseOf, newBody, oldBody, Groups.count, Groups.list]

/-- A first publish after reset. -/
theorem exists_blockHolds (f : ControlBody) : ∃ s : State, s.params = Params.initial ∧
    BlockHolds s f.groups f.status f.quality ∧ loadField s .generation = 1 :=
  ⟨_, publish_params _ _ State.reset, publish_blockHolds f Params.initial State.reset,
    loadField_publish_generation _ _ State.reset⟩

/-- The block of `old` not polled by HOST, the new frame complete in `rx`; in its publish HOST's
loads of the generation, the flags and the quality come before the field stores, the others after
them. -/
def tornStart (old : State) : State :=
  { State.reset with
    mem := old.mem
    rx := controlFrame Params.initial newBody
    agenda := [.lsm]
    plans := [overlapPlan 2] }

theorem loadField_tornStart {old : State} (h : old.params = Params.initial) (f : Field) :
    loadField (tornStart old) f = loadField old f :=
  loadField_congr (s := old) (t := tornStart old) rfl h.symm f

/-- Settles O34: the overlap in one publish, and a run of one step of the LSM that comes to it with
the old quality and the new channels. -/
theorem tornSnapshotAdmitted : Obligations.TornSnapshotAdmitted := by
  refine ⟨fun f s ps n hn hcopy h => ?publish, ?run⟩
  case publish =>
    obtain ⟨c, htorn⟩ := tornPoll_publish (controlFrame s.params f) f.groups.count
      (s := { s with plans := overlapPlan n :: ps }) hn rfl hcopy h
    exact ⟨_, c, exec_publish f _, htorn.copy, htorn.ret, htorn.snap, htorn.lastSeen,
      htorn.generation, htorn.before, htorn.after, publish_blockHolds f s.params _,
      loadField_publish_generation _ _ _⟩
  case run =>
    obtain ⟨old, hparams, ⟨-, hquality, -, hchannels⟩, hseen⟩ := exists_blockHolds oldBody
    have hready : paramsOk Params.initial = true := by decide
    have hold := loadField_tornStart hparams
    obtain ⟨t, c, hrun, htorn, ⟨-, hquality', -, hchannels'⟩, hgen⟩ :=
      run_overlapPlan (s := tornStart old) (f := newBody) (n := 2) rfl hready rfl rfl rfl
        (by decide) rfl rfl (by rw [hold, hseen]; exact Nat.one_ne_zero)
    have hc : c.quality.toNat = loadField (tornStart old) .quality :=
      htorn.before .quality (by decide)
    have hnew (i : Fin 24) : c.channels[i].toNat = loadField t (.channel i) :=
      htorn.after (.channel i) (by revert i; decide)
    refine ⟨tornStart old, t, c, by simp [tornStart], rfl, hrun, rfl, rfl, htorn.ret, htorn.snap,
      htorn.lastSeen, htorn.generation, hgen, hc, ?_, hnew, 0, ?_⟩
    · rw [hc, hold, hquality, hquality']
      decide
    · rw [hnew, hchannels', hold, hchannels]
      exact slotValue_newBody_ne_oldBody

end Sys2Proof.Machine
end

section
/-! One event per step of the LSM (60_exceptions.md R232). Only a failed attempt in `Syncing` and an
error entry raise one; an accepted control frame raises none, and its publish leaves the log as it
was where HOST takes no step inside it. -/

namespace Sys2Proof.Machine

open Sys2Proof

theorem HostSideKept.events {s t : State} (h : HostSideKept s t) : t.events = s.events := by
  obtain ⟨-, -, -, -, hevents, -, -, -⟩ := h
  exact hevents

theorem lsmEffect_events {s t : State} (hu : Undisturbed s) (e : LsmEffect s t) :
    t.events = s.events ∨ ∃ ev, t.events = s.events ++ [ev] := by
  cases e with
  | resync => exact .inr ⟨.syncLoss, rfl⟩
  | error ev st => exact .inr ⟨ev, errorEntry_events ev st s⟩
  | accept gs st q c rest hs hr =>
    exact .inl (HostSideKept.events ((acceptControl_accepted hr).hostSide hu))
  | build item => exact .inl (afterPop_events s)
  | wait | link | silent | transmit => exact .inl rfl

/-- Settles O59: the row of the current state is the LSM's step, whose effects are the rows of the
transition table. -/
theorem lsmRaisesAtMostOneEvent : Obligations.LsmRaisesAtMostOneEvent := by
  intro s t hu hexec
  cases (exec_stateRow s).symm.trans hexec
  exact lsmEffect_events hu (lsmStep_effect s)

end Sys2Proof.Machine
end

section
/-! `RESET` (70_reset_and_hazards.md R250, R252): the block is zeroed, the rest of shared memory
kept. -/

namespace Sys2Proof.Machine

open Sys2Proof

theorem inBlock_iff (s : State) (a : Nat) :
    inBlock s a = true ↔ s.params.scbBase ≤ a ∧ a < s.params.scbBase + 104 := by
  simp only [inBlock, Bool.and_eq_true, decide_eq_true_eq]
  rfl

/-- `RESET` keeps what lies outside the block (70_reset_and_hazards.md R252 (b)). -/
theorem read_resetState_outside {s : State} {a : Nat} (h : ¬ inBlock s a = true) :
    Memory.read (resetState s).mem a = Memory.read s.mem a := by
  rw [resetState_mem, clearBlock, Memory.read_erase, if_neg h]

theorem exec_reset (s : State) : exec .reset s = .next (resetState s) := rfl

/-- Settles O49: the row answers `resetState`, whose memory is read inside and outside the block. -/
theorem resetResult : Obligations.ResetResult := by
  intro s
  have hfields : ∀ f, loadField (resetState s) f = 0 :=
    loadField_eq_zero fun _ => read_resetState_inBlock (s := s)
  have hblock : ∀ a, s.params.scbBase ≤ a → a < s.params.scbBase + 104 →
      Memory.read (resetState s).mem a = 0 :=
    fun a hlo hhi => read_resetState_inBlock ((inBlock_iff s a).2 ⟨hlo, hhi⟩)
  have hrest : ∀ a, a < s.params.scbBase ∨ s.params.scbBase + 104 ≤ a →
      Memory.read (resetState s).mem a = Memory.read s.mem a := by
    intro a h
    apply read_resetState_outside
    rw [inBlock_iff]
    omega
  exact ⟨resetState s, exec_reset s, rfl, hfields, hblock, hrest, rfl, rfl, rfl, rfl, rfl, rfl, rfl,
    rfl, rfl⟩

end Sys2Proof.Machine
end
